-- ==== Sys2Proof/Word.lean ====
section
/-!
DEFINITION. The words of the machine: a byte (20_memory R70), a 32-bit register value or address (00_scope R2, R7),
and the number of a register (30_encoding R104: a 5-bit field).
-/

namespace Sys2Proof

/-- One byte of memory. -/
abbrev Byte := BitVec 8

/-- A register value, an address or an instruction word: 32 bits (00_scope R2). -/
abbrev Word := BitVec 32

/-- The value of a 5-bit register field (00_scope R7: 32 registers per bank). -/
abbrev RegNum := BitVec 5

end Sys2Proof
end

