-- ==== Sys2Proof/Config.lean ====
section
/-!
DEFINITION. What an implementation fixes: the parameters of 00_scope R8 as plain data, and the free values of the model.
A machine state carries one `Config` (log 18) and no instruction changes it, so a statement about every state is a
statement about every admissible choice of the parameters. The spec's default choice is `Machine.defaultConfig`.
-/

namespace Sys2Proof

/-- `OPMAP`: which of the source's two opcode maps the hardware decodes (30_encoding R102, R103). -/
inductive OpMap where
  | s83
  | s821
  deriving DecidableEq, Repr

/-- `OPC_SYS`: the System opcode under `OPMAP = S83` (92 D2 names both values). -/
inductive OpcSys where
  | b001000
  | b000100
  deriving DecidableEq, Repr

/-- `IMM12_EXT`, `IMM14_EXT`: how an immediate is widened to 32 bits (30_encoding R113, R114). -/
inductive Extension where
  | zero
  | sign
  deriving DecidableEq, Repr

/-- `SHIFT_OVER`: a shift by 32 or more (40_integer R141). -/
inductive ShiftOver where
  | literal
  | mod32
  deriving DecidableEq, Repr

/-- `CMP_SIGNED`: the order that comp, compi, bgt and blt use (40_integer R154, 44_branch_jump R220). -/
inductive CmpOrder where
  | signed
  | unsigned
  deriving DecidableEq, Repr

/-- `OV_OTHER`: OV after a logic, shift or compare instruction (10_state R42). -/
inductive OvOther where
  | unchanged
  | cleared
  deriving DecidableEq, Repr

/-- `LI_UPPER_LOW`: the low half of Rd after an upper load-immediate (43_load_immediate R201). -/
inductive UpperLow where
  | zero
  | preserve
  deriving DecidableEq, Repr

/-- One decoded entry of the System Call Table: the triple of 45_system R241. -/
structure SyscallEntry where
  /-- The routine's address. -/
  addr : Word
  /-- The lowest level allowed to make the call. -/
  minPml : BitVec 3
  /-- The level the routine runs at. -/
  runPml : BitVec 3
  deriving DecidableEq, Repr

/-- A range of data addresses, `base .. base + size - 1`. -/
structure Region where
  base : Nat
  size : Nat
  deriving DecidableEq, Repr

/-- The parameters of 00_scope R8, with what 20_memory R81 and 47_coprocessor R281 leave to the platform. -/
structure Config where
  /-- `OPMAP`. -/
  opmap : OpMap
  /-- `OPC_SYS`. -/
  opcSys : OpcSys
  /-- `IMM12_EXT`. -/
  imm12Ext : Extension
  /-- `IMM14_EXT`. -/
  imm14Ext : Extension
  /-- `SHIFT_OVER`. -/
  shiftOver : ShiftOver
  /-- `CMP_SIGNED`. -/
  cmpOrder : CmpOrder
  /-- `OV_OTHER`. -/
  ovOther : OvOther
  /-- `LI_UPPER_LOW`. -/
  liUpperLow : UpperLow
  /-- `UNIFIED_MEMORY` (20_memory R71). -/
  unifiedMemory : Bool
  /-- `UINTEN_CPMI_BIT` (10_state R50). -/
  cpmiBit : BitVec 5
  /-- `UINTEN_ROI_BIT` (10_state R50). -/
  roiBit : BitVec 5
  /-- `PMIR_GRANT`: the pairs (current level, requested level) that are granted (45_system R248). -/
  pmirGrants : List (BitVec 3 × BitVec 3)
  /-- `SYSCALL_ENTRY`: the decoded System Call Table by call number; the first pair with a number is its entry. -/
  syscallTable : List (BitVec 8 × SyscallEntry)
  /-- `HAS_PML` (10_state R43). -/
  hasPml : Bool
  /-- `CPUREV_VALUE`: the register CPUREV (10_state R38). -/
  cpurev : BitVec 8
  /-- `CPNUM_VALUE`: the register CPNUM (10_state R39). -/
  cpnum : BitVec 8
  /-- `OPCARP_HARDCODED`; the constant is what the register holds (10_state R48). -/
  opcarpHardcoded : Bool
  /-- `CPIDTP_HARDCODED`; the constant is what the register holds (10_state R49). -/
  cpidtpHardcoded : Bool
  /-- The co-processor opcodes that a present co-processor claims; counts only if CPNUM is not 0 (47_coprocessor R281). -/
  claimedOpcodes : List (BitVec 6)
  /-- The data addresses the platform does not back (20_memory R81). -/
  unbacked : List Region
  deriving DecidableEq, Repr

/-- FREE VALUE (log 14). `LOCK_ERR(a)` less one: "The error code depends on the resource" (45_system R246). It has no body,
so nothing proves what it is; `Machine.lockErr` adds one, which makes it any function to the non-zero words. -/
opaque Config.freeLockErr : Word → Fin 4294967295

/-- FREE VALUE (log 22). What data memory holds at an address that nothing has written (10_state R60: unspecified). -/
opaque Config.freeInitialByte : Nat → Byte

end Sys2Proof
end

