-- ==== Sys2Proof/Machine/Parameters.lean ====
section
/-!
DEFINITION. The spec's own choice of the parameters (00_scope R8, column "default"; 92_eei_decisions, last table), and the
values that registers hold after reset: those of 10_state R60, and for a register R60 calls unspecified the value that the
assumption log names (logs 19 to 21, DESIGN CHOICE, unsafe).
-/

namespace Sys2Proof.Machine

/-- The default of every parameter of 00_scope R8. CPUREV_VALUE has no default there: 0 is a DESIGN CHOICE (log 16).
The platform parameters `claimedOpcodes` and `unbacked` are empty: no co-processor (47_coprocessor R281), every data
address backed (log 24). -/
def defaultConfig : Config where
  opmap := .s83
  opcSys := .b001000
  imm12Ext := .zero
  imm14Ext := .sign
  shiftOver := .literal
  cmpOrder := .signed
  ovOther := .unchanged
  liUpperLow := .zero
  unifiedMemory := false
  cpmiBit := 0
  roiBit := 1
  pmirGrants := []
  syscallTable := []
  hasPml := true
  cpurev := 0
  cpnum := 0
  opcarpHardcoded := false
  cpidtpHardcoded := false
  claimedOpcodes := []
  unbacked := []

/-- The Reset vector, where `pc` stands after reset (10_state R60, 20_memory R72, 70_reset R350). -/
def resetVector : Word := 0x00000000

/-- The slot of the Co-Processor Microcode Interrupt (20_memory R72). -/
def cpmiVector : Word := 0x00000008

/-- The slot of the Register Overflow interrupt (20_memory R72). -/
def roiVector : Word := 0x00000010

/-- PML after reset: the Top Hypervisor Level (10_state R60, 70_reset R351). -/
def resetPml : BitVec 3 := 0b111

/-- What every register holds after reset where 10_state R60 says "unspecified" (logs 19 to 21). -/
def unspecifiedWord : Word := 0

/-- What a flag of STAT holds after reset where 10_state R60 says "unspecified" (log 20). -/
def unspecifiedFlag : Bool := false

end Sys2Proof.Machine
end

