-- ==== Sys2Proof/Machine/State.lean ====
section
/-!
DEFINITION. The state of one main core (10_state R20), as plain data, the state after reset (R60), and the reasons a step
can stop.
-/

namespace Sys2Proof.Machine

/-- `bank`: which register file the fields rd, rsa, rsb of an instruction address (10_state R21). -/
inductive Bank where
  | gp
  | sys
  deriving DecidableEq, Repr

/-- The general register files. SYSREGF registers 16 to 23 are the storage of GPREGF's (10_state R27) and have no cell of
their own. Cell 0 of `gp` and of `sysLow` is never read or written: register 0 is hard-wired (R26). -/
structure RegFiles where
  /-- GPREGF (10_state R22). -/
  gp : Vector Word 32
  /-- SYSREGF 0 to 15 (10_state R23). -/
  sysLow : Vector Word 16
  /-- SYSREGF 24 to 31 (10_state R23). -/
  sysHigh : Vector Word 8
  /-- GLBREGF (10_state R32). -/
  glb : Vector Word 32
  deriving DecidableEq, Repr

/-- STAT, field by field (10_state R40): all eight bits are defined, and `statBits` is the register as software reads it. -/
structure Stat where
  /-- Z, bit 7 (R41). -/
  z : Bool
  /-- OV, bit 6 (R42). -/
  ov : Bool
  /-- PEMA, bit 5 (R44). -/
  pema : Bool
  /-- PML, bits 4 to 2 (R43). -/
  pml : BitVec 3
  /-- GINE, bit 1 (R45). -/
  gine : Bool
  /-- SPCP, bit 0 (R46). -/
  spcp : Bool
  deriving DecidableEq, Repr

/-- The System Registers that hold a written value (10_state R37); CPUREV and CPNUM are constants of `Config`. -/
structure SpecialRegs where
  /-- OPCARP (R48). -/
  opcarp : Word
  /-- CPIDTP (R49). -/
  cpidtp : Word
  /-- UINTEN (R50). -/
  uinten : Word
  /-- RPTINFO (R51). -/
  rptinfo : Word
  /-- RPID (R52). -/
  rpid : BitVec 16
  deriving DecidableEq, Repr

/-- Memory as (address, byte) pairs; canonical form is `Memory.wf` in Ops. An unlisted address holds no value here. -/
abbrev Memory := List Host.Cell

/-- The state of the machine (10_state R20; INVENTORY.md, State). -/
structure State where
  /-- The parameters of 00_scope R8; no instruction writes them (log 18). -/
  cfg : Config
  /-- The address of the instruction being executed (10_state R33). -/
  pc : Word
  /-- The bank selector (10_state R21). -/
  bank : Bank
  /-- The general register files (10_state R22, R23, R32). -/
  regs : RegFiles
  /-- STAT (10_state R40). -/
  stat : Stat
  /-- The other System Registers (10_state R37). -/
  spr : SpecialRegs
  /-- ECODE (10_state R54). -/
  ecode : BitVec 16
  /-- Whether an exception has halted the core (10_state R58). -/
  halted : Bool
  /-- The model's own: the info of the exception that halted the core (60_exceptions R301; log 25). -/
  haltInfo : Word
  /-- Whether the platform has installed a System Call Table (10_state R55). -/
  sysctpValid : Bool
  /-- The return address that sysret restores (10_state R56). -/
  sysretPc : Word
  /-- The permission level that sysret restores (10_state R56). -/
  sysretPml : BitVec 3
  /-- The locked addresses, strictly rising (10_state R57). -/
  locks : List Nat
  /-- Instruction memory (20_memory R70). -/
  imem : Memory
  /-- Data memory; with `unifiedMemory` the one memory (20_memory R70, R71). -/
  dmem : Memory
  /-- With `unifiedMemory`: the addresses stored to since the last sync, strictly rising (20_memory R86). -/
  unsynced : List Nat
  deriving DecidableEq, Repr

/-- The state right after reset (10_state R60, 70_reset R350, R351), with the spec's default parameters. -/
def State.reset : State where
  cfg := defaultConfig
  pc := resetVector
  bank := .gp
  regs :=
    { gp := Vector.replicate 32 unspecifiedWord
      sysLow := Vector.replicate 16 unspecifiedWord
      sysHigh := Vector.replicate 8 unspecifiedWord
      glb := Vector.replicate 32 unspecifiedWord }
  stat :=
    { z := unspecifiedFlag
      ov := unspecifiedFlag
      pema := unspecifiedFlag
      pml := resetPml
      gine := unspecifiedFlag
      spcp := unspecifiedFlag }
  spr :=
    { opcarp := unspecifiedWord
      cpidtp := unspecifiedWord
      uinten := unspecifiedWord
      rptinfo := unspecifiedWord
      rpid := unspecifiedWord.setWidth 16 }
  ecode := unspecifiedWord.setWidth 16
  halted := false
  haltInfo := unspecifiedWord
  sysctpValid := false
  sysretPc := unspecifiedWord
  sysretPml := unspecifiedWord.setWidth 3
  locks := []
  imem := []
  dmem := []
  unsynced := []

/-- Why the machine stops. -/
inductive Fault where
  /-- A step of a halted core: it has none (60_exceptions R311). Reports ECODE and the info of the exception (R301, R310).
  Raised by the step. Safe: the spec's own end of a run. -/
  | halted (ecode : BitVec 16) (info : Word)
  /-- `fault IllegalInstruction(pc, ins)` (60_exceptions R312). Raised by the step. Safe: the spec gives no effect. -/
  | illegalInstruction (pc ins : Word)
  /-- A load or store that touches an address the platform does not back: stuck (20_memory R81). Safe. -/
  | unbackedAccess (addr : Word)
  /-- A fetch of a byte that nothing has placed in instruction memory (20_memory R81; log 23). Raised by the step. Safe. -/
  | noInstruction (addr : Word)
  deriving DecidableEq, Repr

/-- Why an instruction or a word has no meaning: each is a `refuse` of the spec. -/
inductive Refusal where
  /-- An instruction without a meaning in this model. Raised by an arm of `exec` only; none is left. Safe. -/
  | notModelled (mnemonic : String)
  /-- A register shift with shft not 0 (40_integer R141). Raised by the step. Safe. -/
  | shiftField (ins : Word)
  /-- A stspr to STAT of a value with a read-only bit set (10_state R47). Raised by stspr. Safe. -/
  | statReadOnlyBits (value : Word)
  /-- A stspr or ldspr of an address that is no register (45_system R243, R244). Safe. -/
  | unknownSpr (addr : BitVec 8)
  /-- A sysret with no system call in progress (45_system R242). Safe. -/
  | sysretOutsideSyscall
  /-- A co-processor word, SPCP = 1, with the CPMI interrupt not enabled (47_coprocessor R281). Raised by the step. Safe. -/
  | cpmiNotEnabled (ins : Word)
  /-- A co-processor word that a present co-processor claims (47_coprocessor R281). Raised by the step. Safe. -/
  | coprocessorClaims (ins : Word)
  /-- Under `unifiedMemory`, a fetch of bytes stored to since the last sync (20_memory R86). Raised by the step. Safe. -/
  | unsyncedFetch (pc : Word)
  deriving DecidableEq, Repr

/-- What one step or one instruction answers. -/
abbrev Result := Host.Outcome State Fault Refusal

end Sys2Proof.Machine
end

