-- ==== Sys2Proof/Machine/Ops.lean ====
section
/-!
DEFINITION. The named operations over registers, STAT, memory and sets of addresses, raising an exception (60_exceptions
R310), taking an interrupt (R323), and the system call and its return (45_system R241, R242).
-/

namespace Sys2Proof.Machine

/-! ## Updates: every change a meaning makes to a state goes through one of these -/

def State.setPc (s : State) (v : Word) : State := { s with pc := v }
def State.setBank (s : State) (v : Bank) : State := { s with bank := v }
def State.setRegs (s : State) (v : RegFiles) : State := { s with regs := v }
def State.setStat (s : State) (v : Stat) : State := { s with stat := v }
def State.setSpr (s : State) (v : SpecialRegs) : State := { s with spr := v }
def State.setLocks (s : State) (v : List Nat) : State := { s with locks := v }
def State.setImem (s : State) (v : Memory) : State := { s with imem := v }
def State.setDmem (s : State) (v : Memory) : State := { s with dmem := v }
def State.setUnsynced (s : State) (v : List Nat) : State := { s with unsynced := v }

/-- The hidden pair of 10_state R56. -/
def State.setSysret (s : State) (ret : Word) (level : BitVec 3) : State :=
  { s with sysretPc := ret, sysretPml := level }

/-- ECODE, `halted` and the model's report (10_state R54, R58, 60_exceptions R301). -/
def State.setHalt (s : State) (code : BitVec 16) (info : Word) : State :=
  { s with ecode := code, halted := true, haltInfo := info }

/-- `pc <- pc + 4`, modulo 2^32 (10_state R35, R36). -/
def advance (s : State) : State := s.setPc (s.pc + 4)

/-! ## General registers -/

/-- gp[r]; register 0 reads 0 (10_state R24, R26). -/
def RegFiles.readGp (f : RegFiles) (r : RegNum) : Word :=
  if r = 0 then 0 else f.gp[r.toNat]

/-- sys[r]; register 0 reads 0, and 16 to 23 are gp[16..23] (10_state R24, R26, R27). -/
def RegFiles.readSys (f : RegFiles) (r : RegNum) : Word :=
  if r = 0 then 0
  else if _ : r.toNat < 16 then f.sysLow[r.toNat]
  else if _ : r.toNat < 24 then f.gp[r.toNat]
  else f.sysHigh[r.toNat - 24]

/-- glb[r] (10_state R32): register 0 is an ordinary one (R26). -/
def RegFiles.readGlb (f : RegFiles) (r : RegNum) : Word := f.glb[r.toNat]

/-- gp[r] <- v; nothing for register 0 (10_state R25, R26). -/
def RegFiles.writeGp (f : RegFiles) (r : RegNum) (v : Word) : RegFiles :=
  if r = 0 then f else { f with gp := f.gp.set r.toNat v }

/-- sys[r] <- v; nothing for register 0, and 16 to 23 are gp[16..23] (10_state R25 to R27). -/
def RegFiles.writeSys (f : RegFiles) (r : RegNum) (v : Word) : RegFiles :=
  if r = 0 then f
  else if _ : r.toNat < 16 then { f with sysLow := f.sysLow.set r.toNat v }
  else if _ : r.toNat < 24 then { f with gp := f.gp.set r.toNat v }
  else { f with sysHigh := f.sysHigh.set (r.toNat - 24) v }

/-- glb[r] <- v, for every r (43_load_immediate R200). -/
def RegFiles.writeGlb (f : RegFiles) (r : RegNum) (v : Word) : RegFiles :=
  { f with glb := f.glb.set r.toNat v }

/-- x[r] of a bank (10_state R24). -/
def RegFiles.read (f : RegFiles) : Bank → RegNum → Word
  | .gp, r => f.readGp r
  | .sys, r => f.readSys r

/-- x[r] <- v of a bank (10_state R25). -/
def RegFiles.write (f : RegFiles) : Bank → RegNum → Word → RegFiles
  | .gp, r, v => f.writeGp r v
  | .sys, r, v => f.writeSys r v

/-- x[r], read in the current bank (10_state R24). -/
def State.readReg (s : State) (r : RegNum) : Word := s.regs.read s.bank r

/-- x[r] <- v in the current bank (10_state R25). -/
def State.writeReg (s : State) (r : RegNum) (v : Word) : State := s.setRegs (s.regs.write s.bank r v)

/-- `(GPREGF) Rd <- v`, whatever the bank (43_load_immediate R200). -/
def State.writeGp (s : State) (r : RegNum) (v : Word) : State := s.setRegs (s.regs.writeGp r v)

/-- `(SYSREGF) Rd <- v`, whatever the bank (43_load_immediate R200). -/
def State.writeSys (s : State) (r : RegNum) (v : Word) : State := s.setRegs (s.regs.writeSys r v)

/-- `(GLBREGF) Rd <- v` (43_load_immediate R200). -/
def State.writeGlb (s : State) (r : RegNum) (v : Word) : State := s.setRegs (s.regs.writeGlb r v)

/-- The link register RA, $R4 (10_state R28). -/
def linkReg : RegNum := 4

/-! ## STAT -/

/-- PML: the constant 7 when there are no permission levels (10_state R43). -/
def State.pml (s : State) : BitVec 3 := if s.cfg.hasPml then s.stat.pml else 7

/-- PEMA: the constant 1 when there are no permission levels (10_state R44). -/
def State.pema (s : State) : Bool := if s.cfg.hasPml then s.stat.pema else true

/-- Z <- b (10_state R41). -/
def State.setZ (s : State) (b : Bool) : State := s.setStat { s.stat with z := b }

/-- OV <- b (10_state R42). -/
def State.setOv (s : State) (b : Bool) : State := s.setStat { s.stat with ov := b }

/-- PML <- v; without effect when PML is a constant (45_system R240). -/
def State.setPml (s : State) (v : BitVec 3) : State :=
  if s.cfg.hasPml then s.setStat { s.stat with pml := v } else s

/-- PEMA <- b; without effect when PEMA is a constant (45_system R240). -/
def State.setPema (s : State) (b : Bool) : State :=
  if s.cfg.hasPml then s.setStat { s.stat with pema := b } else s

/-- GINE and SPCP, the two bits of STAT that stspr writes (10_state R47). -/
def State.setEnables (s : State) (gine spcp : Bool) : State :=
  s.setStat { s.stat with gine := gine, spcp := spcp }

/-- STAT as ldspr reads it: Z, OV, PEMA, PML, GINE, SPCP from bit 7 down (10_state R40, 45_system R244). -/
def statBits (s : State) : BitVec 8 :=
  BitVec.ofBool s.stat.z ++ BitVec.ofBool s.stat.ov ++ BitVec.ofBool s.pema ++ s.pml ++
    BitVec.ofBool s.stat.gine ++ BitVec.ofBool s.stat.spcp

/-! ## Exceptions (60_exceptions R300, R310) and interrupts (R320 to R323) -/

/-- The exception list, Figure 5 (60_exceptions R300). The core raises INSFPEM, MISADDR, INVSYS and INVPR; nothing in the
core raises the others. -/
inductive Exn where
  | insfpem
  | misaddr
  | halt
  | pterm
  | pkill
  | pexit
  | tterm
  | tkill
  | texit
  | invsys
  | invpr
  deriving DecidableEq, Repr

/-- The code of an exception (60_exceptions R300). -/
def Exn.code : Exn → BitVec 16
  | .insfpem => 0x0000
  | .misaddr => 0x0001
  | .halt => 0x0002
  | .pterm => 0x0003
  | .pkill => 0x0004
  | .pexit => 0x0005
  | .tterm => 0x0006
  | .tkill => 0x0007
  | .texit => 0x0008
  | .invsys => 0x0009
  | .invpr => 0x000a

/-- `raise E(info)`: ECODE gets the code and the core halts; `pc` stays at the raising instruction and nothing else of the
machine changes (60_exceptions R310). The info goes to the model's report (R301). There is no return from it (R324). -/
def raiseException (e : Exn) (info : Word) (s : State) : State := s.setHalt e.code info

/-- Is the interrupt with this UINTEN bit enabled (60_exceptions R321)? -/
def interruptEnabled (bit : BitVec 5) (s : State) : Bool :=
  s.stat.gine && s.spr.uinten.getLsbD bit.toNat

/-- Interrupt entry: `pc <- vector` and nothing else (60_exceptions R323). -/
def takeInterrupt (vector : Word) (s : State) : State := s.setPc vector

/-! ## System call and return -/

/-- `SYSCALL_ENTRY(n)` (45_system R241). -/
def syscallEntry (c : Config) (n : BitVec 8) : Option SyscallEntry := c.syscallTable.lookup n

/-- `max(PML, run_pml)`: the level is raised and never lowered (45_system R241). -/
def raisedLevel (level run : BitVec 3) : BitVec 3 := if level.toNat < run.toNat then run else level

/-- An accepted system call (45_system R241). -/
def enterSyscall (e : SyscallEntry) (s : State) : State :=
  ((((s.setPema true).setSysret (s.pc + 4) s.pml).setPml (raisedLevel s.pml e.runPml)).setBank .sys).setPc e.addr

/-- A rejected system call: PEMA is cleared and the exception raised (45_system R241). -/
def rejectSyscall (e : Exn) (n : BitVec 8) (s : State) : State :=
  raiseException e (n.setWidth 32) (s.setPema false)

/-- The return from a system call (45_system R242). -/
def leaveSyscall (s : State) : State := ((s.setBank .gp).setPml s.sysretPml).setPc s.sysretPc

/-- `PMIR_GRANT(cur, req)` (45_system R248). -/
def pmirGranted (c : Config) (cur req : BitVec 3) : Bool := c.pmirGrants.contains (cur, req)

/-! ## Sets of addresses, strictly rising -/

/-- The set with one address more. -/
def insertAddr (a : Nat) : List Nat → List Nat
  | [] => [a]
  | k :: m => if a < k then a :: k :: m else if a = k then k :: m else k :: insertAddr a m

/-- A strictly rising list of 32-bit addresses. -/
abbrev addrSetWf (m : List Nat) : Prop := m.Pairwise (· < ·) ∧ ∀ k ∈ m, k < 4294967296

/-- `LOCK_ERR(a)`: any function to the non-zero words (45_system R246; FREE VALUE, log 14). -/
def lockErr (a : Word) : Word := BitVec.ofNat 32 ((Config.freeLockErr a).val + 1)

/-! ## Memory -/

/-- The canonical form of a memory: addresses strictly rising, within the address space. An unlisted address holds no
value, so no entry can repeat what an unlisted address reads as. -/
abbrev Memory.wf (m : Memory) : Prop :=
  (m.map Prod.fst).Pairwise (· < ·) ∧ ∀ k ∈ m.map Prod.fst, k < 4294967296

/-- The byte a memory holds at an address; none for an unlisted one. -/
def Memory.read : Memory → Nat → Option Byte
  | [], _ => none
  | (k, v) :: m, a => if k = a then some v else Memory.read m a

/-- The memory with one byte written. -/
def Memory.write : Memory → Nat → Byte → Memory
  | [], a, b => [(a, b)]
  | (k, v) :: m, a, b =>
    if a < k then (a, b) :: (k, v) :: m
    else if a = k then (a, b) :: m
    else (k, v) :: Memory.write m a b

/-- One byte of data memory: where nothing has written, a free value (10_state R60; log 22). DESIGN CHOICE (log 47): 20_memory
R80 leaves the side effects of an access to the platform's memory map, and the model takes every backed address as plain storage:
a read changes nothing, and what was written is what is read. -/
def State.readByte (s : State) (a : Word) : Byte :=
  (Memory.read s.dmem a.toNat).getD (Config.freeInitialByte a.toNat)

/-- `MemRead(a, n)`, zero-extended: the byte at `a` is the most significant, addresses wrap (20_memory R74). -/
def memRead (s : State) (a : Word) : Nat → Word
  | 0 => 0
  | n + 1 => ((s.readByte a).setWidth 32 <<< (8 * n)) ||| memRead s (a + 1) n

/-- The bytes of `MemWrite(a, n, v)` in a memory: the most significant of the n goes to `a` (20_memory R75). -/
def writeBytes (m : Memory) (a v : Word) : Nat → Memory
  | 0 => m
  | n + 1 => writeBytes (Memory.write m a.toNat (v.extractLsb' (8 * n) 8)) (a + 1) v n

/-- The addresses `a .. a+n-1` added to a set. -/
def insertAddrs (u : List Nat) (a : Word) : Nat → List Nat
  | 0 => u
  | n + 1 => insertAddrs (insertAddr a.toNat u) (a + 1) n

/-- `MemWrite(a, n, v)` (20_memory R75); in a unified memory the bytes are unsynced until the next sync (R86). -/
def memWrite (s : State) (a v : Word) (n : Nat) : State :=
  let t := s.setDmem (writeBytes s.dmem a v n)
  if s.cfg.unifiedMemory then t.setUnsynced (insertAddrs s.unsynced a n) else t

/-- Does the platform back this address (20_memory R81)? DESIGN CHOICE (log 24): R81 lets the platform refuse each request, and
the model's answer depends on the address alone, one set for loads, for stores and for the fetches of a unified memory. -/
def backed (c : Config) (a : Nat) : Bool :=
  c.unbacked.all fun r => !(decide (r.base ≤ a) && decide (a < r.base + r.size))

/-- Does the platform back the n bytes at `a`? -/
def backedRange (c : Config) (a : Word) : Nat → Bool
  | 0 => true
  | n + 1 => backed c a.toNat && backedRange c (a + 1) n

/-- `sync` in a unified memory: earlier stores are visible to the fetch (20_memory R86). -/
def syncFetch (s : State) : State := if s.cfg.unifiedMemory then s.setUnsynced [] else s

/-! ## Reset -/

/-- The reset input (70_reset R350): the state of 10_state R60 under the same parameters and program, a hard-coded OPCARP or
CPIDTP keeping its constant and data memory as it stands (log 37). Not a step: no instruction causes it. -/
def applyReset (s : State) : State :=
  { State.reset with
    cfg := s.cfg
    imem := s.imem
    dmem := s.dmem
    spr :=
      { State.reset.spr with
        opcarp := if s.cfg.opcarpHardcoded then s.spr.opcarp else State.reset.spr.opcarp
        cpidtp := if s.cfg.cpidtpHardcoded then s.spr.cpidtp else State.reset.spr.cpidtp } }

end Sys2Proof.Machine
end

