-- ==== Sys2Proof/Machine/Flags.lean ====
section
/-!
DEFINITION. The flag computations: Z (10_state R41) and OV (R42), and the interrupt ROI that a write of OV can cause
(60_exceptions R322).
-/

namespace Sys2Proof.Machine

/-- Z: the 32-bit result is zero (10_state R41). -/
def isZero (r : Word) : Bool := r == 0

/-- OV of an addition: the carry out of 32 bits (10_state R42). -/
def addCarry (a b : Word) : Bool := decide (2 ^ 32 ≤ a.toNat + b.toNat)

/-- OV of a subtraction: the borrow (10_state R42). -/
def subBorrow (a b : Word) : Bool := decide (a.toNat < b.toNat)

/-- OV after a logic, shift or compare instruction (10_state R42, `OV_OTHER`). -/
def State.setOvOther (s : State) : State :=
  match s.cfg.ovOther with
  | .unchanged => s
  | .cleared => s.setOv false

/-- The end of add, addi, sub, subi: with OV written 1 and ROI enabled the interrupt is taken (60_exceptions R322). -/
def advanceOrRoi (ov : Bool) (s : State) : State :=
  if ov && interruptEnabled s.cfg.roiBit s then takeInterrupt roiVector s else advance s

end Sys2Proof.Machine
end

