-- ==== Sys2Proof/Machine/Operands.lean ====
section
/-!
DEFINITION. The operand forms: how each immediate is widened (30_encoding R113 to R118), and the addresses computed from
them (42_load_store R180, 44_branch_jump R220, R221).
-/

namespace Sys2Proof.Machine

/-- An immediate widened to 32 bits. -/
def extend {n : Nat} : Extension → BitVec n → Word
  | .zero, v => v.setWidth 32
  | .sign, v => v.signExtend 32

/-- imm12 of addi, subi, addui, subui, noti and compi, which `IMM12_EXT` rules (30_encoding R113, 41_immediate R166; log 4). -/
def imm12Arith (s : State) (imm : BitVec 12) : Word := extend s.cfg.imm12Ext imm

/-- imm12 of the logic instructions: always zero-extended (30_encoding R113). -/
def imm12Logic (imm : BitVec 12) : Word := imm.setWidth 32

/-- The effective address of a load or store (42_load_store R180). -/
def effectiveAddr (s : State) (rsa : RegNum) (imm : BitVec 14) : Word :=
  s.readReg rsa + extend s.cfg.imm14Ext imm

/-- The target of a taken branch (44_branch_jump R220). -/
def branchTarget (s : State) (imm : BitVec 14) : Word := s.pc + imm.signExtend 32

/-- The target of j and jal, relative to the jump itself (44_branch_jump R221). -/
def relativeTarget (s : State) (imm : BitVec 21) : Word := s.pc + imm.signExtend 32

/-- The target of jr and jrl, relative to the base register (44_branch_jump R221). -/
def registerTarget (s : State) (imm : BitVec 21) (rsa : RegNum) : Word := s.readReg rsa + imm.signExtend 32

/-- Is an address no multiple of an alignment (20_memory R78, R79)? -/
def misaligned (alignment : Nat) (a : Word) : Bool := a.toNat % alignment != 0

/-- The value of an upper load-immediate over a register's old value (43_load_immediate R201, `LI_UPPER_LOW`). -/
def upperValue (s : State) (imm : BitVec 16) (old : Word) : Word :=
  match s.cfg.liUpperLow with
  | .zero => imm ++ (0 : BitVec 16)
  | .preserve => imm ++ old.extractLsb' 0 16

end Sys2Proof.Machine
end

