-- ==== Sys2Proof/Machine/Alu.lean ====
section
/-!
DEFINITION. What the Integer and Immediate families share: shifts (40_integer R141), comparison (R154), and the three ways an
instruction of these families ends (R140, R160).
-/

namespace Sys2Proof.Machine

/-- A shift by `n`: for 32 or more `SHIFT_OVER` decides, `beyond` being what the literal shift gives (40_integer R141). -/
def shiftBy (s : State) (shift : Nat → Word) (beyond : Word) (n : Nat) : Word :=
  if n < 32 then shift n
  else
    match s.cfg.shiftOver with
    | .literal => beyond
    | .mod32 => shift (n % 32)

/-- A left shift, arithmetic or logic: the same bits (40_integer R150, R152). -/
def shiftLeft (s : State) (a : Word) (n : Nat) : Word := shiftBy s (fun k => a <<< k) 0 n

/-- A logic right shift (40_integer R153). -/
def shiftRightLogic (s : State) (a : Word) (n : Nat) : Word := shiftBy s (fun k => a >>> k) 0 n

/-- An arithmetic right shift: the vacated bits copy bit 31 (40_integer R151). -/
def shiftRightArith (s : State) (a : Word) (n : Nat) : Word :=
  shiftBy s (fun k => a.sshiftRight k) (if a.getLsbD 31 then 0xFFFFFFFF else 0) n

/-- `a > b` in the order `CMP_SIGNED` selects (40_integer R154, 44_branch_jump R220). -/
def greater (s : State) (a b : Word) : Bool :=
  match s.cfg.cmpOrder with
  | .signed => b.slt a
  | .unsigned => b.ult a

/-- The result of comp and compi: 0, 1 or -1 (40_integer R154). -/
def compare3 (s : State) (a b : Word) : Word :=
  if a = b then 0 else if greater s a b then 1 else 0xFFFFFFFF

/-- add, addi, sub, subi: Rd, Z and OV are written, then ROI may be taken (40_integer R140, 60_exceptions R322). -/
def finishArith (rd : RegNum) (r : Word) (ov : Bool) (s : State) : State :=
  advanceOrRoi ov (((s.writeReg rd r).setZ (isZero r)).setOv ov)

/-- addu, addui, subu, subui: Rd and Z are written, OV is not (40_integer R144). -/
def finishKeepOv (rd : RegNum) (r : Word) (s : State) : State :=
  advance ((s.writeReg rd r).setZ (isZero r))

/-- Logic, shift and compare: Rd and Z are written, OV as `OV_OTHER` says (40_integer R140). -/
def finishOther (rd : RegNum) (r : Word) (s : State) : State :=
  advance (((s.writeReg rd r).setZ (isZero r)).setOvOther)

end Sys2Proof.Machine
end

