-- ==== Sys2Proof/Machine/BranchJump.lean ====
section
/-!
DEFINITION. The Branch and Jump families (44_branch_jump). No target is checked here: a misaligned one raises MISADDR at the next
fetch (20_memory R79).
-/

namespace Sys2Proof.Machine

/-- A branch (44_branch_jump R220): taken to its target, else to the next instruction. -/
def branch (cond : Bool) (imm : BitVec 14) (s : State) : State :=
  if cond then s.setPc (branchTarget s imm) else advance s

/-- A linking jump (44_branch_jump R221): RA of the current bank gets `pc + 4`; the target was computed before. -/
def linkTo (target : Word) (s : State) : State := (s.writeReg linkReg (s.pc + 4)).setPc target

/-- beq: taken if equal (44_branch_jump R222). -/
def execBeq (rsa rsb : RegNum) (imm : BitVec 14) (s : State) : Result :=
  .next (branch (s.readReg rsa == s.readReg rsb) imm s)

/-- bne: taken if not equal (44_branch_jump R223). -/
def execBne (rsa rsb : RegNum) (imm : BitVec 14) (s : State) : Result :=
  .next (branch (s.readReg rsa != s.readReg rsb) imm s)

/-- bgt: taken if RSa is greater (44_branch_jump R224). -/
def execBgt (rsa rsb : RegNum) (imm : BitVec 14) (s : State) : Result :=
  .next (branch (greater s (s.readReg rsa) (s.readReg rsb)) imm s)

/-- blt: taken if RSa is less (44_branch_jump R225). -/
def execBlt (rsa rsb : RegNum) (imm : BitVec 14) (s : State) : Result :=
  .next (branch (greater s (s.readReg rsb) (s.readReg rsa)) imm s)

/-- j: PC relative jump (44_branch_jump R226). -/
def execJ (imm : BitVec 21) (s : State) : Result :=
  .next (s.setPc (relativeTarget s imm))

/-- jal: PC relative jump, link (44_branch_jump R227). -/
def execJal (imm : BitVec 21) (s : State) : Result :=
  .next (linkTo (relativeTarget s imm) s)

/-- jr: jump relative to RSa (44_branch_jump R228). -/
def execJr (imm : BitVec 21) (rsa : RegNum) (s : State) : Result :=
  .next (s.setPc (registerTarget s imm rsa))

/-- jrl: jump relative to RSa as it was before the link, link (44_branch_jump R229). -/
def execJrl (imm : BitVec 21) (rsa : RegNum) (s : State) : Result :=
  .next (linkTo (registerTarget s imm rsa) s)

end Sys2Proof.Machine
end

