-- ==== Sys2Proof/Machine/Immediate.lean ====
section
/-!
DEFINITION. The Immediate family (41_immediate): flags as the Integer instruction of the same aluop (R160); shift amounts
are the unsigned imm12 (R161).
-/

namespace Sys2Proof.Machine

/-- addi: Rd <- RSa + imm12; Z, OV the carry; may cause ROI (41_immediate R162). -/
def execAddi (rd rsa : RegNum) (imm : BitVec 12) (s : State) : Result :=
  .next (finishArith rd (s.readReg rsa + imm12Arith s imm) (addCarry (s.readReg rsa) (imm12Arith s imm)) s)

/-- subi: Rd <- RSa - imm12; Z, OV the borrow; may cause ROI (41_immediate R163). -/
def execSubi (rd rsa : RegNum) (imm : BitVec 12) (s : State) : Result :=
  .next (finishArith rd (s.readReg rsa - imm12Arith s imm) (subBorrow (s.readReg rsa) (imm12Arith s imm)) s)

/-- addui: as addi, OV not written (41_immediate R164). -/
def execAddui (rd rsa : RegNum) (imm : BitVec 12) (s : State) : Result :=
  .next (finishKeepOv rd (s.readReg rsa + imm12Arith s imm) s)

/-- subui: as subi, OV not written (41_immediate R165). -/
def execSubui (rd rsa : RegNum) (imm : BitVec 12) (s : State) : Result :=
  .next (finishKeepOv rd (s.readReg rsa - imm12Arith s imm) s)

/-- noti: the bitwise complement of imm12; no source register (41_immediate R166). -/
def execNoti (rd : RegNum) (imm : BitVec 12) (s : State) : Result :=
  .next (finishOther rd (~~~imm12Arith s imm) s)

/-- andi (41_immediate R167). -/
def execAndi (rd rsa : RegNum) (imm : BitVec 12) (s : State) : Result :=
  .next (finishOther rd (s.readReg rsa &&& imm12Logic imm) s)

/-- ori (41_immediate R168). -/
def execOri (rd rsa : RegNum) (imm : BitVec 12) (s : State) : Result :=
  .next (finishOther rd (s.readReg rsa ||| imm12Logic imm) s)

/-- xori (41_immediate R169). -/
def execXori (rd rsa : RegNum) (imm : BitVec 12) (s : State) : Result :=
  .next (finishOther rd (s.readReg rsa ^^^ imm12Logic imm) s)

/-- sali: the left shift by imm12, the same bits as slli (41_immediate R170). -/
def execSali (rd rsa : RegNum) (imm : BitVec 12) (s : State) : Result :=
  .next (finishOther rd (shiftLeft s (s.readReg rsa) imm.toNat) s)

/-- sari: the arithmetic right shift by imm12 (41_immediate R171). -/
def execSari (rd rsa : RegNum) (imm : BitVec 12) (s : State) : Result :=
  .next (finishOther rd (shiftRightArith s (s.readReg rsa) imm.toNat) s)

/-- slli: the left shift by imm12 (41_immediate R172). -/
def execSlli (rd rsa : RegNum) (imm : BitVec 12) (s : State) : Result :=
  .next (finishOther rd (shiftLeft s (s.readReg rsa) imm.toNat) s)

/-- slri: the logic right shift by imm12 (41_immediate R173). -/
def execSlri (rd rsa : RegNum) (imm : BitVec 12) (s : State) : Result :=
  .next (finishOther rd (shiftRightLogic s (s.readReg rsa) imm.toNat) s)

/-- compi: 0, 1 or -1 (41_immediate R174). -/
def execCompi (rd rsa : RegNum) (imm : BitVec 12) (s : State) : Result :=
  .next (finishOther rd (compare3 s (s.readReg rsa) (imm12Arith s imm)) s)

end Sys2Proof.Machine
end

