-- ==== Sys2Proof/Machine/Integer.lean ====
section
/-!
DEFINITION. The Integer family (40_integer): both operands are read before the destination is written (R140).
-/

namespace Sys2Proof.Machine

/-- add: Rd <- RSa + RSb; Z, OV the carry; may cause ROI (40_integer R142). -/
def execAdd (rd rsa rsb : RegNum) (s : State) : Result :=
  .next (finishArith rd (s.readReg rsa + s.readReg rsb) (addCarry (s.readReg rsa) (s.readReg rsb)) s)

/-- sub: Rd <- RSa - RSb; Z, OV the borrow; may cause ROI (40_integer R143). -/
def execSub (rd rsa rsb : RegNum) (s : State) : Result :=
  .next (finishArith rd (s.readReg rsa - s.readReg rsb) (subBorrow (s.readReg rsa) (s.readReg rsb)) s)

/-- addu: as add, OV not written (40_integer R144). -/
def execAddu (rd rsa rsb : RegNum) (s : State) : Result :=
  .next (finishKeepOv rd (s.readReg rsa + s.readReg rsb) s)

/-- subu: as sub, OV not written (40_integer R145). -/
def execSubu (rd rsa rsb : RegNum) (s : State) : Result :=
  .next (finishKeepOv rd (s.readReg rsa - s.readReg rsb) s)

/-- not: the bitwise complement (40_integer R146). -/
def execNot (rd rsa : RegNum) (s : State) : Result :=
  .next (finishOther rd (~~~s.readReg rsa) s)

/-- and (40_integer R147). -/
def execAnd (rd rsa rsb : RegNum) (s : State) : Result :=
  .next (finishOther rd (s.readReg rsa &&& s.readReg rsb) s)

/-- or (40_integer R148). -/
def execOr (rd rsa rsb : RegNum) (s : State) : Result :=
  .next (finishOther rd (s.readReg rsa ||| s.readReg rsb) s)

/-- xor (40_integer R149). -/
def execXor (rd rsa rsb : RegNum) (s : State) : Result :=
  .next (finishOther rd (s.readReg rsa ^^^ s.readReg rsb) s)

/-- sal: the left shift by the whole of RSb, the same bits as sll (40_integer R150). -/
def execSal (rd rsa rsb : RegNum) (s : State) : Result :=
  .next (finishOther rd (shiftLeft s (s.readReg rsa) (s.readReg rsb).toNat) s)

/-- sar: the arithmetic right shift by the whole of RSb (40_integer R151). -/
def execSar (rd rsa rsb : RegNum) (s : State) : Result :=
  .next (finishOther rd (shiftRightArith s (s.readReg rsa) (s.readReg rsb).toNat) s)

/-- sll: the left shift by the whole of RSb (40_integer R152). -/
def execSll (rd rsa rsb : RegNum) (s : State) : Result :=
  .next (finishOther rd (shiftLeft s (s.readReg rsa) (s.readReg rsb).toNat) s)

/-- slr: the logic right shift by the whole of RSb (40_integer R153). -/
def execSlr (rd rsa rsb : RegNum) (s : State) : Result :=
  .next (finishOther rd (shiftRightLogic s (s.readReg rsa) (s.readReg rsb).toNat) s)

/-- comp: 0, 1 or -1 (40_integer R154). -/
def execComp (rd rsa rsb : RegNum) (s : State) : Result :=
  .next (finishOther rd (compare3 s (s.readReg rsa) (s.readReg rsb)) s)

end Sys2Proof.Machine
end

