-- ==== Sys2Proof/Machine/LoadImmediate.lean ====
section
/-!
DEFINITION. The Load Immediate family (43_load_immediate): DSEL names the register file, whatever the bank, and no STAT bit is
written (R200).
-/

namespace Sys2Proof.Machine

/-- li: lower half, sign-extended, into GPREGF (43_load_immediate R202). -/
def execLi (rd : RegNum) (imm : BitVec 16) (s : State) : Result :=
  .next (advance (s.writeGp rd (imm.signExtend 32)))

/-- lsi: lower half, sign-extended, into SYSREGF (43_load_immediate R203). -/
def execLsi (rd : RegNum) (imm : BitVec 16) (s : State) : Result :=
  .next (advance (s.writeSys rd (imm.signExtend 32)))

/-- lgi: lower half, sign-extended, into GLBREGF (43_load_immediate R204). -/
def execLgi (rd : RegNum) (imm : BitVec 16) (s : State) : Result :=
  .next (advance (s.writeGlb rd (imm.signExtend 32)))

/-- lui: upper half, into GPREGF (43_load_immediate R205). -/
def execLui (rd : RegNum) (imm : BitVec 16) (s : State) : Result :=
  .next (advance (s.writeGp rd (upperValue s imm (s.regs.readGp rd))))

/-- lusi: upper half, into SYSREGF (43_load_immediate R206). -/
def execLusi (rd : RegNum) (imm : BitVec 16) (s : State) : Result :=
  .next (advance (s.writeSys rd (upperValue s imm (s.regs.readSys rd))))

/-- lugi: upper half, into GLBREGF (43_load_immediate R207). -/
def execLugi (rd : RegNum) (imm : BitVec 16) (s : State) : Result :=
  .next (advance (s.writeGlb rd (upperValue s imm (s.regs.readGlb rd))))

/-- lni: lower half, zero-extended, into GPREGF (43_load_immediate R208). -/
def execLni (rd : RegNum) (imm : BitVec 16) (s : State) : Result :=
  .next (advance (s.writeGp rd (imm.setWidth 32)))

/-- lnsi: lower half, zero-extended, into SYSREGF (43_load_immediate R209). -/
def execLnsi (rd : RegNum) (imm : BitVec 16) (s : State) : Result :=
  .next (advance (s.writeSys rd (imm.setWidth 32)))

/-- lngi: lower half, zero-extended, into GLBREGF (43_load_immediate R210). -/
def execLngi (rd : RegNum) (imm : BitVec 16) (s : State) : Result :=
  .next (advance (s.writeGlb rd (imm.setWidth 32)))

/-- luni: upper half, into GPREGF (43_load_immediate R211). -/
def execLuni (rd : RegNum) (imm : BitVec 16) (s : State) : Result :=
  .next (advance (s.writeGp rd (upperValue s imm (s.regs.readGp rd))))

/-- lunsi: upper half, into SYSREGF (43_load_immediate R212). -/
def execLunsi (rd : RegNum) (imm : BitVec 16) (s : State) : Result :=
  .next (advance (s.writeSys rd (upperValue s imm (s.regs.readSys rd))))

/-- lungi: upper half, into GLBREGF (43_load_immediate R213). -/
def execLungi (rd : RegNum) (imm : BitVec 16) (s : State) : Result :=
  .next (advance (s.writeGlb rd (upperValue s imm (s.regs.readGlb rd))))

end Sys2Proof.Machine
end

