-- ==== Sys2Proof/Machine/LoadStore.lean ====
section
/-!
DEFINITION. The Load and Store families (42_load_store). No STAT bit is read or written (R181).
-/

namespace Sys2Proof.Machine

/-- A load of n bytes (42_load_store R181): the address, its alignment, the platform's answer, then the register. -/
def load (n alignment : Nat) (rd : RegNum) (imm : BitVec 14) (rsa : RegNum) (s : State) : Result :=
  let ea := effectiveAddr s rsa imm
  if misaligned alignment ea then .next (raiseException .misaddr ea s)
  else if backedRange s.cfg ea n then .next (advance (s.writeReg rd (memRead s ea n)))
  else .fault (.unbackedAccess ea)

/-- A store of the low n bytes of RSb (42_load_store R181): the address, its alignment, the platform's answer, then memory. -/
def store (n alignment : Nat) (rsb : RegNum) (imm : BitVec 14) (rsa : RegNum) (s : State) : Result :=
  let ea := effectiveAddr s rsa imm
  if misaligned alignment ea then .next (raiseException .misaddr ea s)
  else if backedRange s.cfg ea n then .next (advance (memWrite s ea (s.readReg rsb) n))
  else .fault (.unbackedAccess ea)

/-- lw: 4 bytes (42_load_store R182). -/
def execLw (rd : RegNum) (imm : BitVec 14) (rsa : RegNum) (s : State) : Result :=
  load 4 4 rd imm rsa s

/-- lh: 2 bytes (42_load_store R183). -/
def execLh (rd : RegNum) (imm : BitVec 14) (rsa : RegNum) (s : State) : Result :=
  load 2 2 rd imm rsa s

/-- lth: 3 bytes, word aligned (42_load_store R184). -/
def execLth (rd : RegNum) (imm : BitVec 14) (rsa : RegNum) (s : State) : Result :=
  load 3 4 rd imm rsa s

/-- lb: 1 byte, at any address (42_load_store R185). -/
def execLb (rd : RegNum) (imm : BitVec 14) (rsa : RegNum) (s : State) : Result :=
  load 1 1 rd imm rsa s

/-- sw: 4 bytes (42_load_store R186). -/
def execSw (rsb : RegNum) (imm : BitVec 14) (rsa : RegNum) (s : State) : Result :=
  store 4 4 rsb imm rsa s

/-- sh: 2 bytes (42_load_store R187). -/
def execSh (rsb : RegNum) (imm : BitVec 14) (rsa : RegNum) (s : State) : Result :=
  store 2 2 rsb imm rsa s

/-- sth: 3 bytes, word aligned (42_load_store R188). -/
def execSth (rsb : RegNum) (imm : BitVec 14) (rsa : RegNum) (s : State) : Result :=
  store 3 4 rsb imm rsa s

/-- sb: 1 byte, at any address (42_load_store R189). -/
def execSb (rsb : RegNum) (imm : BitVec 14) (rsa : RegNum) (s : State) : Result :=
  store 1 1 rsb imm rsa s

end Sys2Proof.Machine
end

