-- ==== Sys2Proof/Machine/System.lean ====
section
/-!
DEFINITION. The System family (45_system). An instruction that raises an exception changes nothing but what the raising
changes, and PEMA for syscall (R240). The System Registers are reached by exact address (10_state R37) under the levels of
the table 10_state R61.
-/

namespace Sys2Proof.Machine

/-! ## The System Registers -/

/-- The System Registers (10_state R37). -/
inductive Spr where
  | cpurev
  | cpnum
  | stat
  | opcarp
  | cpidtp
  | uinten
  | rptinfo
  | rpid
  deriving DecidableEq, Repr

/-- The register at an address; every other address is no register (10_state R37, 45_system R243). -/
def sprAt (a : BitVec 8) : Option Spr :=
  match a.toNat with
  | 0x00 => some .cpurev
  | 0x01 => some .cpnum
  | 0x02 => some .stat
  | 0x04 => some .opcarp
  | 0x08 => some .cpidtp
  | 0x0c => some .uinten
  | 0x10 => some .rptinfo
  | 0x12 => some .rpid
  | _ => none

/-- The lowest level that may read a register (10_state R61). -/
def sprReadLevel : Spr → Nat
  | .opcarp => 3
  | .cpurev => 0
  | .cpnum => 0
  | .stat => 0
  | .cpidtp => 0
  | .uinten => 0
  | .rptinfo => 0
  | .rpid => 0

/-- The lowest level that may write a register (10_state R61). -/
def sprWriteLevel : Spr → Nat
  | .cpurev => 0
  | .cpnum => 0
  | .stat => 2
  | .opcarp => 3
  | .cpidtp => 4
  | .uinten => 2
  | .rptinfo => 3
  | .rpid => 3

/-- What ldspr reads, zero-extended (45_system R244). -/
def readSpr (s : State) : Spr → Word
  | .cpurev => s.cfg.cpurev.setWidth 32
  | .cpnum => s.cfg.cpnum.setWidth 32
  | .stat => (statBits s).setWidth 32
  | .opcarp => s.spr.opcarp
  | .cpidtp => s.spr.cpidtp
  | .uinten => s.spr.uinten
  | .rptinfo => s.spr.rptinfo
  | .rpid => s.spr.rpid.setWidth 32

/-- What stspr writes (45_system R243); the write to STAT of a value with a read-only bit set is apart (10_state R47). A
hard-coded register keeps its constant (10_state R38, R39, R48, R49). -/
def writeSpr (v : Word) (s : State) : Spr → State
  | .cpurev => s
  | .cpnum => s
  | .stat => s.setEnables (v.getLsbD 1) (v.getLsbD 0)
  | .opcarp => if s.cfg.opcarpHardcoded then s else s.setSpr { s.spr with opcarp := v }
  | .cpidtp => if s.cfg.cpidtpHardcoded then s else s.setSpr { s.spr with cpidtp := v }
  | .uinten => s.setSpr { s.spr with uinten := v }
  | .rptinfo => s.setSpr { s.spr with rptinfo := v }
  | .rpid => s.setSpr { s.spr with rpid := v.extractLsb' 0 16 }

/-! ## The instructions -/

/-- syscall: no table or no entry raises INVSYS, too low a level INSFPEM, else the routine starts (45_system R241). -/
def execSyscall (num : BitVec 8) (s : State) : Result :=
  if s.sysctpValid then
    match syscallEntry s.cfg num with
    | none => .next (rejectSyscall .invsys num s)
    | some e =>
      if s.pml.toNat < e.minPml.toNat then .next (rejectSyscall .insfpem num s) else .next (enterSyscall e s)
  else .next (rejectSyscall .invsys num s)

/-- sysret: back to the bank, the level and the address of the caller; with no call in progress, refused (45_system R242). -/
def execSysret (s : State) : Result :=
  match s.bank with
  | .sys => .next (leaveSyscall s)
  | .gp => .refused .sysretOutsideSyscall

/-- stspr: unknown address, then the level, then the read-only bits of STAT, then the write (45_system R243, 60_exceptions
R326). -/
def execStspr (rsa : RegNum) (spr : BitVec 8) (s : State) : Result :=
  match sprAt spr with
  | none => .refused (.unknownSpr spr)
  | some r =>
    if s.pml.toNat < sprWriteLevel r then .next (raiseException .insfpem (spr.setWidth 32) s)
    else if r = .stat ∧ (s.readReg rsa).extractLsb' 2 6 ≠ 0 then .refused (.statReadOnlyBits (s.readReg rsa))
    else .next (advance (writeSpr (s.readReg rsa) s r))

/-- ldspr: unknown address, then the level, then the read (45_system R244, 60_exceptions R326). -/
def execLdspr (rd : RegNum) (spr : BitVec 8) (s : State) : Result :=
  match sprAt spr with
  | none => .refused (.unknownSpr spr)
  | some r =>
    if s.pml.toNat < sprReadLevel r then .next (raiseException .insfpem (spr.setWidth 32) s)
    else .next (advance (s.writeReg rd (readSpr s r)))

/-- sync: earlier accesses are performed already (20_memory R83); in a unified memory the fetch sees earlier stores
(45_system R245, 20_memory R86). -/
def execSync (s : State) : Result := .next (advance (syncFetch s))

/-- lock: 0 and the address locked, or the error code of an address already locked (45_system R246). -/
def execLock (rd rsa : RegNum) (s : State) : Result :=
  if s.locks.contains (s.readReg rsa).toNat then .next (advance (s.writeReg rd (lockErr (s.readReg rsa))))
  else .next (advance ((s.setLocks (insertAddr (s.readReg rsa).toNat s.locks)).writeReg rd 0))

/-- test: what a lock of the address would report (45_system R247). -/
def execTest (rd rsa : RegNum) (s : State) : Result :=
  if s.locks.contains (s.readReg rsa).toNat then .next (advance (s.writeReg rd (lockErr (s.readReg rsa))))
  else .next (advance (s.writeReg rd 0))

/-- Does imm8 name no level: above 7, or the reserved 6 (45_system R248)? -/
def notALevel (level : BitVec 8) : Bool := decide (7 < level.toNat) || level == 6

/-- INVPR, with the requested level as its info (45_system R248, R249). -/
def invalidLevel (level : BitVec 8) (s : State) : Result := .next (raiseException .invpr (level.setWidth 32) s)

/-- pmir: a raise of the level needs a grant; the current level is no change; else INVPR (45_system R248). -/
def execPmir (level : BitVec 8) (s : State) : Result :=
  if !s.cfg.hasPml then .next (advance s)
  else if notALevel level then invalidLevel level s
  else if level.toNat = s.pml.toNat then .next (advance s)
  else if level.toNat < s.pml.toNat then invalidLevel level s
  else if pmirGranted s.cfg s.pml (level.setWidth 3) then .next (advance (s.setPml (level.setWidth 3)))
  else invalidLevel level s

/-- pmd: the current level or a lower one; else INVPR (45_system R249). -/
def execPmd (level : BitVec 8) (s : State) : Result :=
  if !s.cfg.hasPml then .next (advance s)
  else if notALevel level then invalidLevel level s
  else if level.toNat ≤ s.pml.toNat then .next (advance (s.setPml (level.setWidth 3)))
  else invalidLevel level s

end Sys2Proof.Machine
end

