-- ==== Sys2Proof/Syntax.lean ====
section
/-!
DEFINITION. The syntax of the core instruction set: one constructor for each of the 63 rows of 30_encoding R121
(spec/opcode_table.json), operands in the order of the assembler (30_encoding R124). A field an instruction ignores
(30_encoding R120) is not an operand. An immediate that an encoding splits (Store, Branch, Jump formats) is one operand here.
-/

namespace Sys2Proof

/-- An instruction of the main core (00_scope R3: "exactly the 63 instructions"). -/
inductive Instr where
  -- Integer format (30_encoding R104)
  | add (rd rsa rsb : RegNum)
  | sub (rd rsa rsb : RegNum)
  | addu (rd rsa rsb : RegNum)
  | subu (rd rsa rsb : RegNum)
  | not (rd rsa : RegNum)
  | and (rd rsa rsb : RegNum)
  | or (rd rsa rsb : RegNum)
  | xor (rd rsa rsb : RegNum)
  | sal (rd rsa rsb : RegNum)
  | sar (rd rsa rsb : RegNum)
  | sll (rd rsa rsb : RegNum)
  | slr (rd rsa rsb : RegNum)
  | comp (rd rsa rsb : RegNum)
  -- Immediate format (30_encoding R105)
  | addi (rd rsa : RegNum) (imm : BitVec 12)
  | subi (rd rsa : RegNum) (imm : BitVec 12)
  | addui (rd rsa : RegNum) (imm : BitVec 12)
  | subui (rd rsa : RegNum) (imm : BitVec 12)
  | noti (rd : RegNum) (imm : BitVec 12)
  | andi (rd rsa : RegNum) (imm : BitVec 12)
  | ori (rd rsa : RegNum) (imm : BitVec 12)
  | xori (rd rsa : RegNum) (imm : BitVec 12)
  | sali (rd rsa : RegNum) (imm : BitVec 12)
  | sari (rd rsa : RegNum) (imm : BitVec 12)
  | slli (rd rsa : RegNum) (imm : BitVec 12)
  | slri (rd rsa : RegNum) (imm : BitVec 12)
  | compi (rd rsa : RegNum) (imm : BitVec 12)
  -- Load format (30_encoding R106)
  | lw (rd : RegNum) (imm : BitVec 14) (rsa : RegNum)
  | lh (rd : RegNum) (imm : BitVec 14) (rsa : RegNum)
  | lth (rd : RegNum) (imm : BitVec 14) (rsa : RegNum)
  | lb (rd : RegNum) (imm : BitVec 14) (rsa : RegNum)
  -- Store format (30_encoding R108)
  | sw (rsb : RegNum) (imm : BitVec 14) (rsa : RegNum)
  | sh (rsb : RegNum) (imm : BitVec 14) (rsa : RegNum)
  | sth (rsb : RegNum) (imm : BitVec 14) (rsa : RegNum)
  | sb (rsb : RegNum) (imm : BitVec 14) (rsa : RegNum)
  -- Load Immediate format (30_encoding R107)
  | li (rd : RegNum) (imm : BitVec 16)
  | lsi (rd : RegNum) (imm : BitVec 16)
  | lgi (rd : RegNum) (imm : BitVec 16)
  | lui (rd : RegNum) (imm : BitVec 16)
  | lusi (rd : RegNum) (imm : BitVec 16)
  | lugi (rd : RegNum) (imm : BitVec 16)
  | lni (rd : RegNum) (imm : BitVec 16)
  | lnsi (rd : RegNum) (imm : BitVec 16)
  | lngi (rd : RegNum) (imm : BitVec 16)
  | luni (rd : RegNum) (imm : BitVec 16)
  | lunsi (rd : RegNum) (imm : BitVec 16)
  | lungi (rd : RegNum) (imm : BitVec 16)
  -- Branch format (30_encoding R110)
  | beq (rsa rsb : RegNum) (imm : BitVec 14)
  | bne (rsa rsb : RegNum) (imm : BitVec 14)
  | bgt (rsa rsb : RegNum) (imm : BitVec 14)
  | blt (rsa rsb : RegNum) (imm : BitVec 14)
  -- Jump format (30_encoding R109)
  | j (imm : BitVec 21)
  | jal (imm : BitVec 21)
  | jr (imm : BitVec 21) (rsa : RegNum)
  | jrl (imm : BitVec 21) (rsa : RegNum)
  -- System format (30_encoding R111)
  | syscall (num : BitVec 8)
  | sysret
  | stspr (rsa : RegNum) (spr : BitVec 8)
  | ldspr (rd : RegNum) (spr : BitVec 8)
  | sync
  | lock (rd rsa : RegNum)
  | test (rd rsa : RegNum)
  | pmir (level : BitVec 8)
  | pmd (level : BitVec 8)
  deriving DecidableEq, Repr

end Sys2Proof
end

