-- ==== Sys2Proof/Machine/Dispatch.lean ====
section
/-!
DEFINITION. The meaning of every instruction: one arm per constructor of `Instr`.
-/

namespace Sys2Proof.Machine

def exec (i : Instr) (s : State) : Host.Outcome State Fault Refusal :=
  match i with
  | .add rd rsa rsb => Sys2Proof.Machine.execAdd rd rsa rsb s
  | .sub rd rsa rsb => Sys2Proof.Machine.execSub rd rsa rsb s
  | .addu rd rsa rsb => Sys2Proof.Machine.execAddu rd rsa rsb s
  | .subu rd rsa rsb => Sys2Proof.Machine.execSubu rd rsa rsb s
  | .not rd rsa => Sys2Proof.Machine.execNot rd rsa s
  | .and rd rsa rsb => Sys2Proof.Machine.execAnd rd rsa rsb s
  | .or rd rsa rsb => Sys2Proof.Machine.execOr rd rsa rsb s
  | .xor rd rsa rsb => Sys2Proof.Machine.execXor rd rsa rsb s
  | .sal rd rsa rsb => Sys2Proof.Machine.execSal rd rsa rsb s
  | .sar rd rsa rsb => Sys2Proof.Machine.execSar rd rsa rsb s
  | .sll rd rsa rsb => Sys2Proof.Machine.execSll rd rsa rsb s
  | .slr rd rsa rsb => Sys2Proof.Machine.execSlr rd rsa rsb s
  | .comp rd rsa rsb => Sys2Proof.Machine.execComp rd rsa rsb s
  | .addi rd rsa imm => Sys2Proof.Machine.execAddi rd rsa imm s
  | .subi rd rsa imm => Sys2Proof.Machine.execSubi rd rsa imm s
  | .addui rd rsa imm => Sys2Proof.Machine.execAddui rd rsa imm s
  | .subui rd rsa imm => Sys2Proof.Machine.execSubui rd rsa imm s
  | .noti rd imm => Sys2Proof.Machine.execNoti rd imm s
  | .andi rd rsa imm => Sys2Proof.Machine.execAndi rd rsa imm s
  | .ori rd rsa imm => Sys2Proof.Machine.execOri rd rsa imm s
  | .xori rd rsa imm => Sys2Proof.Machine.execXori rd rsa imm s
  | .sali rd rsa imm => Sys2Proof.Machine.execSali rd rsa imm s
  | .sari rd rsa imm => Sys2Proof.Machine.execSari rd rsa imm s
  | .slli rd rsa imm => Sys2Proof.Machine.execSlli rd rsa imm s
  | .slri rd rsa imm => Sys2Proof.Machine.execSlri rd rsa imm s
  | .compi rd rsa imm => Sys2Proof.Machine.execCompi rd rsa imm s
  | .lw rd imm rsa => Sys2Proof.Machine.execLw rd imm rsa s
  | .lh rd imm rsa => Sys2Proof.Machine.execLh rd imm rsa s
  | .lth rd imm rsa => Sys2Proof.Machine.execLth rd imm rsa s
  | .lb rd imm rsa => Sys2Proof.Machine.execLb rd imm rsa s
  | .sw rsb imm rsa => Sys2Proof.Machine.execSw rsb imm rsa s
  | .sh rsb imm rsa => Sys2Proof.Machine.execSh rsb imm rsa s
  | .sth rsb imm rsa => Sys2Proof.Machine.execSth rsb imm rsa s
  | .sb rsb imm rsa => Sys2Proof.Machine.execSb rsb imm rsa s
  | .li rd imm => Sys2Proof.Machine.execLi rd imm s
  | .lsi rd imm => Sys2Proof.Machine.execLsi rd imm s
  | .lgi rd imm => Sys2Proof.Machine.execLgi rd imm s
  | .lui rd imm => Sys2Proof.Machine.execLui rd imm s
  | .lusi rd imm => Sys2Proof.Machine.execLusi rd imm s
  | .lugi rd imm => Sys2Proof.Machine.execLugi rd imm s
  | .lni rd imm => Sys2Proof.Machine.execLni rd imm s
  | .lnsi rd imm => Sys2Proof.Machine.execLnsi rd imm s
  | .lngi rd imm => Sys2Proof.Machine.execLngi rd imm s
  | .luni rd imm => Sys2Proof.Machine.execLuni rd imm s
  | .lunsi rd imm => Sys2Proof.Machine.execLunsi rd imm s
  | .lungi rd imm => Sys2Proof.Machine.execLungi rd imm s
  | .beq rsa rsb imm => Sys2Proof.Machine.execBeq rsa rsb imm s
  | .bne rsa rsb imm => Sys2Proof.Machine.execBne rsa rsb imm s
  | .bgt rsa rsb imm => Sys2Proof.Machine.execBgt rsa rsb imm s
  | .blt rsa rsb imm => Sys2Proof.Machine.execBlt rsa rsb imm s
  | .j imm => Sys2Proof.Machine.execJ imm s
  | .jal imm => Sys2Proof.Machine.execJal imm s
  | .jr imm rsa => Sys2Proof.Machine.execJr imm rsa s
  | .jrl imm rsa => Sys2Proof.Machine.execJrl imm rsa s
  | .syscall num => Sys2Proof.Machine.execSyscall num s
  | .sysret => Sys2Proof.Machine.execSysret s
  | .stspr rsa spr => Sys2Proof.Machine.execStspr rsa spr s
  | .ldspr rd spr => Sys2Proof.Machine.execLdspr rd spr s
  | .sync => Sys2Proof.Machine.execSync s
  | .lock rd rsa => Sys2Proof.Machine.execLock rd rsa s
  | .test rd rsa => Sys2Proof.Machine.execTest rd rsa s
  | .pmir level => Sys2Proof.Machine.execPmir level s
  | .pmd level => Sys2Proof.Machine.execPmd level s

end Sys2Proof.Machine
end

