-- ==== Sys2Proof/WellFormed.lean ====
section
/-!
DEFINITION. Which terms of the syntax stand for an instruction. The types of the operands bound every field; what is left
is 30_encoding R123: jr and jrl name a register other than $R0, because their words with rsa = 0 are j and jal.
-/

namespace Sys2Proof

/-- `i` is the instruction of some word (30_encoding R123). -/
def Instr.wellFormed : Instr → Bool
  | .jr _ rsa => rsa != 0
  | .jrl _ rsa => rsa != 0
  | .add .. => true
  | .sub .. => true
  | .addu .. => true
  | .subu .. => true
  | .not .. => true
  | .and .. => true
  | .or .. => true
  | .xor .. => true
  | .sal .. => true
  | .sar .. => true
  | .sll .. => true
  | .slr .. => true
  | .comp .. => true
  | .addi .. => true
  | .subi .. => true
  | .addui .. => true
  | .subui .. => true
  | .noti .. => true
  | .andi .. => true
  | .ori .. => true
  | .xori .. => true
  | .sali .. => true
  | .sari .. => true
  | .slli .. => true
  | .slri .. => true
  | .compi .. => true
  | .lw .. => true
  | .lh .. => true
  | .lth .. => true
  | .lb .. => true
  | .sw .. => true
  | .sh .. => true
  | .sth .. => true
  | .sb .. => true
  | .li .. => true
  | .lsi .. => true
  | .lgi .. => true
  | .lui .. => true
  | .lusi .. => true
  | .lugi .. => true
  | .lni .. => true
  | .lnsi .. => true
  | .lngi .. => true
  | .luni .. => true
  | .lunsi .. => true
  | .lungi .. => true
  | .beq .. => true
  | .bne .. => true
  | .bgt .. => true
  | .blt .. => true
  | .j .. => true
  | .jal .. => true
  | .syscall .. => true
  | .sysret => true
  | .stspr .. => true
  | .ldspr .. => true
  | .sync => true
  | .lock .. => true
  | .test .. => true
  | .pmir .. => true
  | .pmd .. => true

end Sys2Proof
end

