-- ==== Sys2Proof/Decode.lean ====
section
/-!
DEFINITION. Decoding (30_encoding R119), total on any word and on any bytes and rejecting by name, and after it the encoder,
written from the same formats (30_encoding R104 to R111). Both take the configuration, because `OPMAP` and `OPC_SYS` fix the
opcodes (R102, R103).
-/

namespace Sys2Proof

/-- The nine opcode groups of 30_encoding R102 that the main core executes. -/
inductive Format where
  | integer
  | loadImmediate
  | immediate
  | branch
  | jump
  | jumpLink
  | system
  | load
  | store
  deriving DecidableEq, Repr

/-- Why a word is no core instruction. All but `coprocessor`, `shiftField` and `truncated` are illegal instructions
(30_encoding R122). -/
inductive Reject where
  /-- An opcode that no format has (30_encoding R102, R122). -/
  | unassignedOpcode
  /-- aluop 0xd, 0xe or 0xf (30_encoding R104, R105, R122). -/
  | reservedAluop
  /-- `noti` with rsa not 0 (30_encoding R120, R122). -/
  | notiRsa
  /-- A DSEL of no instruction (30_encoding R107, R122). -/
  | unassignedDsel
  /-- A System Funct of no instruction (30_encoding R111, R122). -/
  | unassignedFunct
  /-- A register shift with shft not 0, which the spec refuses (40_integer R141). -/
  | shiftField
  /-- A co-processor word (47_coprocessor R280). -/
  | coprocessor
  /-- Fewer than four bytes. -/
  | truncated
  deriving DecidableEq, Repr

/-! ## Opcodes -/

/-- The opcode of a format: 30_encoding R102 under `OPMAP = S83`, R103 under `S821`. -/
def opcode (c : Config) : Format → BitVec 6
  | .integer => match c.opmap with | .s83 => 0b000001 | .s821 => 0b010011
  | .loadImmediate => match c.opmap with | .s83 => 0b000010 | .s821 => 0b010000
  | .immediate => match c.opmap with | .s83 => 0b000011 | .s821 => 0b010110
  | .branch => match c.opmap with | .s83 => 0b000101 | .s821 => 0b001101
  | .jump => match c.opmap with | .s83 => 0b000110 | .s821 => 0b001100
  | .jumpLink => match c.opmap with | .s83 => 0b000111 | .s821 => 0b000100
  | .system =>
    match c.opmap, c.opcSys with
    | .s83, .b001000 => 0b001000
    | .s83, .b000100 => 0b000100
    | .s821, _ => 0b100000
  | .load => match c.opmap with | .s83 => 0b010010 | .s821 => 0b011110
  | .store => match c.opmap with | .s83 => 0b011010 | .s821 => 0b011101

/-- Is this the opcode of a co-processor word: 1xxxxx under `S83` (30_encoding R102), 11xxxx under `S821` (R103; log 3). -/
def isCoprocessorOpcode (c : Config) (op : BitVec 6) : Bool :=
  match c.opmap with
  | .s83 => op.getLsbD 5
  | .s821 => op.getLsbD 5 && op.getLsbD 4

/-- The format an opcode selects. -/
def formatOf (c : Config) (op : BitVec 6) : Option Format :=
  [Format.integer, .loadImmediate, .immediate, .branch, .jump, .jumpLink, .system, .load, .store].find?
    fun f => opcode c f == op

/-! ## The fields of a word (30_encoding R104 to R111, R113 to R118) -/

/-- ins[31:26]. -/
def opcodeField (w : Word) : BitVec 6 := w.extractLsb' 26 6

/-- rd, ins[25:21]; in the Branch and Jump formats the upper immediate bits stand here. -/
def rdField (w : Word) : BitVec 5 := w.extractLsb' 21 5

/-- rsa, ins[20:16]; in the Load Immediate format DSEL stands here. -/
def rsaField (w : Word) : BitVec 5 := w.extractLsb' 16 5

/-- rsb, ins[15:11]. -/
def rsbField (w : Word) : BitVec 5 := w.extractLsb' 11 5

/-- shft, ins[10:4]. -/
def shftField (w : Word) : BitVec 7 := w.extractLsb' 4 7

/-- aluop, ins[3:0]. -/
def aluopField (w : Word) : BitVec 4 := w.extractLsb' 0 4

/-- imm12, ins[15:4] (30_encoding R113). -/
def imm12Field (w : Word) : BitVec 12 := w.extractLsb' 4 12

/-- funct of a load, ins[15:14] (30_encoding R106). -/
def loadFunct (w : Word) : BitVec 2 := w.extractLsb' 14 2

/-- imm14 of a load, ins[13:0] (30_encoding R114). -/
def loadImm (w : Word) : BitVec 14 := w.extractLsb' 0 14

/-- funct of a store, ins[25:24] (30_encoding R108). -/
def storeFunct (w : Word) : BitVec 2 := w.extractLsb' 24 2

/-- imm14 of a store, ins[23:21] above ins[10:0] (30_encoding R114). -/
def storeImm (w : Word) : BitVec 14 := w.extractLsb' 21 3 ++ w.extractLsb' 0 11

/-- imm14 of a branch, ins[25:21] above ins[10:2] (30_encoding R115). -/
def branchImm (w : Word) : BitVec 14 := w.extractLsb' 21 5 ++ w.extractLsb' 2 9

/-- funct of a branch, ins[1:0] (30_encoding R110). -/
def branchFunct (w : Word) : BitVec 2 := w.extractLsb' 0 2

/-- imm21 of a jump, ins[25:21] above ins[15:0] (30_encoding R116). -/
def jumpImm (w : Word) : BitVec 21 := w.extractLsb' 21 5 ++ w.extractLsb' 0 16

/-- imm16, ins[15:0] (30_encoding R117). -/
def imm16Field (w : Word) : BitVec 16 := w.extractLsb' 0 16

/-- Funct of the System format, ins[15:8] (30_encoding R111). -/
def functField (w : Word) : BitVec 8 := w.extractLsb' 8 8

/-- imm8, ins[7:0] (30_encoding R118). -/
def imm8Field (w : Word) : BitVec 8 := w.extractLsb' 0 8

/-! ## Decoding -/

/-- A register shift: its shft field must be zero, or the word is refused (40_integer R141). -/
def decodeShift (w : Word) (make : RegNum → RegNum → RegNum → Instr) : Except Reject Instr :=
  if shftField w = 0 then .ok (make (rdField w) (rsaField w) (rsbField w)) else .error .shiftField

/-- The Integer format by aluop (30_encoding R104). -/
def decodeInteger (w : Word) : Except Reject Instr :=
  match (aluopField w).toNat with
  | 0x0 => .ok (.add (rdField w) (rsaField w) (rsbField w))
  | 0x1 => .ok (.sub (rdField w) (rsaField w) (rsbField w))
  | 0x2 => .ok (.addu (rdField w) (rsaField w) (rsbField w))
  | 0x3 => .ok (.subu (rdField w) (rsaField w) (rsbField w))
  | 0x4 => .ok (.not (rdField w) (rsaField w))
  | 0x5 => .ok (.and (rdField w) (rsaField w) (rsbField w))
  | 0x6 => .ok (.or (rdField w) (rsaField w) (rsbField w))
  | 0x7 => .ok (.xor (rdField w) (rsaField w) (rsbField w))
  | 0x8 => decodeShift w .sal
  | 0x9 => decodeShift w .sar
  | 0xa => decodeShift w .sll
  | 0xb => decodeShift w .slr
  | 0xc => .ok (.comp (rdField w) (rsaField w) (rsbField w))
  | _ => .error .reservedAluop

/-- The Immediate format by aluop (30_encoding R105); `noti` must have rsa 0 (R120). -/
def decodeImmediate (w : Word) : Except Reject Instr :=
  match (aluopField w).toNat with
  | 0x0 => .ok (.addi (rdField w) (rsaField w) (imm12Field w))
  | 0x1 => .ok (.subi (rdField w) (rsaField w) (imm12Field w))
  | 0x2 => .ok (.addui (rdField w) (rsaField w) (imm12Field w))
  | 0x3 => .ok (.subui (rdField w) (rsaField w) (imm12Field w))
  | 0x4 => if rsaField w = 0 then .ok (.noti (rdField w) (imm12Field w)) else .error .notiRsa
  | 0x5 => .ok (.andi (rdField w) (rsaField w) (imm12Field w))
  | 0x6 => .ok (.ori (rdField w) (rsaField w) (imm12Field w))
  | 0x7 => .ok (.xori (rdField w) (rsaField w) (imm12Field w))
  | 0x8 => .ok (.sali (rdField w) (rsaField w) (imm12Field w))
  | 0x9 => .ok (.sari (rdField w) (rsaField w) (imm12Field w))
  | 0xa => .ok (.slli (rdField w) (rsaField w) (imm12Field w))
  | 0xb => .ok (.slri (rdField w) (rsaField w) (imm12Field w))
  | 0xc => .ok (.compi (rdField w) (rsaField w) (imm12Field w))
  | _ => .error .reservedAluop

/-- The Load format by funct (30_encoding R106); every funct is assigned. -/
def decodeLoad (w : Word) : Except Reject Instr :=
  match (loadFunct w).toNat with
  | 0 => .ok (.lw (rdField w) (loadImm w) (rsaField w))
  | 1 => .ok (.lh (rdField w) (loadImm w) (rsaField w))
  | 2 => .ok (.lth (rdField w) (loadImm w) (rsaField w))
  | _ => .ok (.lb (rdField w) (loadImm w) (rsaField w))

/-- The Store format by funct (30_encoding R108); every funct is assigned. -/
def decodeStore (w : Word) : Except Reject Instr :=
  match (storeFunct w).toNat with
  | 0 => .ok (.sw (rsbField w) (storeImm w) (rsaField w))
  | 1 => .ok (.sh (rsbField w) (storeImm w) (rsaField w))
  | 2 => .ok (.sth (rsbField w) (storeImm w) (rsaField w))
  | _ => .ok (.sb (rsbField w) (storeImm w) (rsaField w))

/-- The Load Immediate format by the five-bit DSEL (30_encoding R107). -/
def decodeLoadImmediate (w : Word) : Except Reject Instr :=
  match (rsaField w).toNat with
  | 0x00 => .ok (.li (rdField w) (imm16Field w))
  | 0x01 => .ok (.lsi (rdField w) (imm16Field w))
  | 0x02 => .ok (.lgi (rdField w) (imm16Field w))
  | 0x03 => .ok (.lui (rdField w) (imm16Field w))
  | 0x04 => .ok (.lusi (rdField w) (imm16Field w))
  | 0x05 => .ok (.lugi (rdField w) (imm16Field w))
  | 0x08 => .ok (.lni (rdField w) (imm16Field w))
  | 0x09 => .ok (.lnsi (rdField w) (imm16Field w))
  | 0x0a => .ok (.lngi (rdField w) (imm16Field w))
  | 0x0b => .ok (.luni (rdField w) (imm16Field w))
  | 0x0c => .ok (.lunsi (rdField w) (imm16Field w))
  | 0x0d => .ok (.lungi (rdField w) (imm16Field w))
  | _ => .error .unassignedDsel

/-- The Branch format by funct (30_encoding R110); every funct is assigned. -/
def decodeBranch (w : Word) : Except Reject Instr :=
  match (branchFunct w).toNat with
  | 0 => .ok (.beq (rsaField w) (rsbField w) (branchImm w))
  | 1 => .ok (.bne (rsaField w) (rsbField w) (branchImm w))
  | 2 => .ok (.bgt (rsaField w) (rsbField w) (branchImm w))
  | _ => .ok (.blt (rsaField w) (rsbField w) (branchImm w))

/-- Opcode 000110: j if rsa is 0, else jr (30_encoding R123). -/
def decodeJump (w : Word) : Except Reject Instr :=
  if rsaField w = 0 then .ok (.j (jumpImm w)) else .ok (.jr (jumpImm w) (rsaField w))

/-- Opcode 000111: jal if rsa is 0, else jrl (30_encoding R123). -/
def decodeJumpLink (w : Word) : Except Reject Instr :=
  if rsaField w = 0 then .ok (.jal (jumpImm w)) else .ok (.jrl (jumpImm w) (rsaField w))

/-- The System format by Funct (30_encoding R111). -/
def decodeSystem (w : Word) : Except Reject Instr :=
  match (functField w).toNat with
  | 0x00 => .ok (.syscall (imm8Field w))
  | 0x01 => .ok .sysret
  | 0x02 => .ok (.stspr (rsaField w) (imm8Field w))
  | 0x03 => .ok (.ldspr (rdField w) (imm8Field w))
  | 0x04 => .ok .sync
  | 0x05 => .ok (.lock (rdField w) (rsaField w))
  | 0x06 => .ok (.test (rdField w) (rsaField w))
  | 0x07 => .ok (.pmir (imm8Field w))
  | 0x08 => .ok (.pmd (imm8Field w))
  | _ => .error .unassignedFunct

/-- A word of a known format. -/
def decodeFormat (w : Word) : Format → Except Reject Instr
  | .integer => decodeInteger w
  | .loadImmediate => decodeLoadImmediate w
  | .immediate => decodeImmediate w
  | .branch => decodeBranch w
  | .jump => decodeJump w
  | .jumpLink => decodeJumpLink w
  | .system => decodeSystem w
  | .load => decodeLoad w
  | .store => decodeStore w

/-- The decode procedure of 30_encoding R119: the instruction of a word, or the reason it has none. -/
def decode (c : Config) (w : Word) : Except Reject Instr :=
  if isCoprocessorOpcode c (opcodeField w) then .error .coprocessor
  else
    match formatOf c (opcodeField w) with
    | some f => decodeFormat w f
    | none => .error .unassignedOpcode

/-! ## Words and bytes: big endian (20_memory R73) -/

/-- The word whose byte at the lowest address is `b0`. -/
def wordOfBytes (b0 b1 b2 b3 : Byte) : Word := b0 ++ b1 ++ b2 ++ b3

/-- The byte of a word at offset `k` (0 to 3) from the word's address. -/
def byteOfWord (w : Word) (k : Nat) : Byte := w.extractLsb' (8 * (3 - k)) 8

/-- The four bytes of a word, lowest address first. -/
def bytesOfWord (w : Word) : List Byte := [byteOfWord w 0, byteOfWord w 1, byteOfWord w 2, byteOfWord w 3]

/-- Decoding from a stream of bytes: the instruction and the bytes after it. -/
def decodeBytes (c : Config) : List Byte → Except Reject (Instr × List Byte)
  | b0 :: b1 :: b2 :: b3 :: rest =>
    match decode c (wordOfBytes b0 b1 b2 b3) with
    | .ok i => .ok (i, rest)
    | .error r => .error r
  | _ => .error .truncated

/-- What the decoder reads, under the spec's default parameters, from an instruction whose bits are `w`. -/
def decodeTableWord (nbits w : Nat) : Option Instr :=
  match decodeBytes Machine.defaultConfig (bytesOfWord (BitVec.ofNat 32 (w % 2 ^ nbits))) with
  | .ok (i, _) => some i
  | .error _ => none

/-! ## Encoding -/

/-- Integer format (30_encoding R104); `shft` is 0, as the assembler emits it (R124). -/
def encodeInteger (c : Config) (rd rsa rsb : RegNum) (aluop : BitVec 4) : Word :=
  opcode c .integer ++ rd ++ rsa ++ rsb ++ (0 : BitVec 7) ++ aluop

/-- Immediate format (30_encoding R105). -/
def encodeImmediate (c : Config) (rd rsa : RegNum) (imm : BitVec 12) (aluop : BitVec 4) : Word :=
  opcode c .immediate ++ rd ++ rsa ++ imm ++ aluop

/-- Load format (30_encoding R106). -/
def encodeLoad (c : Config) (rd rsa : RegNum) (funct : BitVec 2) (imm : BitVec 14) : Word :=
  opcode c .load ++ rd ++ rsa ++ funct ++ imm

/-- Store format (30_encoding R108): the immediate is split. -/
def encodeStore (c : Config) (rsb rsa : RegNum) (funct : BitVec 2) (imm : BitVec 14) : Word :=
  opcode c .store ++ funct ++ imm.extractLsb' 11 3 ++ rsa ++ rsb ++ imm.extractLsb' 0 11

/-- Load Immediate format (30_encoding R107). -/
def encodeLoadImmediate (c : Config) (rd : RegNum) (dsel : BitVec 5) (imm : BitVec 16) : Word :=
  opcode c .loadImmediate ++ rd ++ dsel ++ imm

/-- Branch format (30_encoding R110): the immediate is split. -/
def encodeBranch (c : Config) (rsa rsb : RegNum) (imm : BitVec 14) (funct : BitVec 2) : Word :=
  opcode c .branch ++ imm.extractLsb' 9 5 ++ rsa ++ rsb ++ imm.extractLsb' 0 9 ++ funct

/-- Jump format (30_encoding R109): the immediate is split. -/
def encodeJump (c : Config) (f : Format) (imm : BitVec 21) (rsa : RegNum) : Word :=
  opcode c f ++ imm.extractLsb' 16 5 ++ rsa ++ imm.extractLsb' 0 16

/-- System format (30_encoding R111). -/
def encodeSystem (c : Config) (rd rsa : RegNum) (funct imm : BitVec 8) : Word :=
  opcode c .system ++ rd ++ rsa ++ funct ++ imm

/-- The word of an instruction, zero in every field the instruction ignores (30_encoding R121, R124). -/
def encode (c : Config) : Instr → Word
  | .add rd rsa rsb => encodeInteger c rd rsa rsb 0x0
  | .sub rd rsa rsb => encodeInteger c rd rsa rsb 0x1
  | .addu rd rsa rsb => encodeInteger c rd rsa rsb 0x2
  | .subu rd rsa rsb => encodeInteger c rd rsa rsb 0x3
  | .not rd rsa => encodeInteger c rd rsa 0 0x4
  | .and rd rsa rsb => encodeInteger c rd rsa rsb 0x5
  | .or rd rsa rsb => encodeInteger c rd rsa rsb 0x6
  | .xor rd rsa rsb => encodeInteger c rd rsa rsb 0x7
  | .sal rd rsa rsb => encodeInteger c rd rsa rsb 0x8
  | .sar rd rsa rsb => encodeInteger c rd rsa rsb 0x9
  | .sll rd rsa rsb => encodeInteger c rd rsa rsb 0xa
  | .slr rd rsa rsb => encodeInteger c rd rsa rsb 0xb
  | .comp rd rsa rsb => encodeInteger c rd rsa rsb 0xc
  | .addi rd rsa imm => encodeImmediate c rd rsa imm 0x0
  | .subi rd rsa imm => encodeImmediate c rd rsa imm 0x1
  | .addui rd rsa imm => encodeImmediate c rd rsa imm 0x2
  | .subui rd rsa imm => encodeImmediate c rd rsa imm 0x3
  | .noti rd imm => encodeImmediate c rd 0 imm 0x4
  | .andi rd rsa imm => encodeImmediate c rd rsa imm 0x5
  | .ori rd rsa imm => encodeImmediate c rd rsa imm 0x6
  | .xori rd rsa imm => encodeImmediate c rd rsa imm 0x7
  | .sali rd rsa imm => encodeImmediate c rd rsa imm 0x8
  | .sari rd rsa imm => encodeImmediate c rd rsa imm 0x9
  | .slli rd rsa imm => encodeImmediate c rd rsa imm 0xa
  | .slri rd rsa imm => encodeImmediate c rd rsa imm 0xb
  | .compi rd rsa imm => encodeImmediate c rd rsa imm 0xc
  | .lw rd imm rsa => encodeLoad c rd rsa 0 imm
  | .lh rd imm rsa => encodeLoad c rd rsa 1 imm
  | .lth rd imm rsa => encodeLoad c rd rsa 2 imm
  | .lb rd imm rsa => encodeLoad c rd rsa 3 imm
  | .sw rsb imm rsa => encodeStore c rsb rsa 0 imm
  | .sh rsb imm rsa => encodeStore c rsb rsa 1 imm
  | .sth rsb imm rsa => encodeStore c rsb rsa 2 imm
  | .sb rsb imm rsa => encodeStore c rsb rsa 3 imm
  | .li rd imm => encodeLoadImmediate c rd 0x00 imm
  | .lsi rd imm => encodeLoadImmediate c rd 0x01 imm
  | .lgi rd imm => encodeLoadImmediate c rd 0x02 imm
  | .lui rd imm => encodeLoadImmediate c rd 0x03 imm
  | .lusi rd imm => encodeLoadImmediate c rd 0x04 imm
  | .lugi rd imm => encodeLoadImmediate c rd 0x05 imm
  | .lni rd imm => encodeLoadImmediate c rd 0x08 imm
  | .lnsi rd imm => encodeLoadImmediate c rd 0x09 imm
  | .lngi rd imm => encodeLoadImmediate c rd 0x0a imm
  | .luni rd imm => encodeLoadImmediate c rd 0x0b imm
  | .lunsi rd imm => encodeLoadImmediate c rd 0x0c imm
  | .lungi rd imm => encodeLoadImmediate c rd 0x0d imm
  | .beq rsa rsb imm => encodeBranch c rsa rsb imm 0
  | .bne rsa rsb imm => encodeBranch c rsa rsb imm 1
  | .bgt rsa rsb imm => encodeBranch c rsa rsb imm 2
  | .blt rsa rsb imm => encodeBranch c rsa rsb imm 3
  | .j imm => encodeJump c .jump imm 0
  | .jal imm => encodeJump c .jumpLink imm 0
  | .jr imm rsa => encodeJump c .jump imm rsa
  | .jrl imm rsa => encodeJump c .jumpLink imm rsa
  | .syscall num => encodeSystem c 0 0 0x00 num
  | .sysret => encodeSystem c 0 0 0x01 0
  | .stspr rsa spr => encodeSystem c 0 rsa 0x02 spr
  | .ldspr rd spr => encodeSystem c rd 0 0x03 spr
  | .sync => encodeSystem c 0 0 0x04 0
  | .lock rd rsa => encodeSystem c rd rsa 0x05 0
  | .test rd rsa => encodeSystem c rd rsa 0x06 0
  | .pmir level => encodeSystem c 0 0 0x07 level
  | .pmd level => encodeSystem c 0 0 0x08 level

/-- The format of an instruction (30_encoding R121). -/
def Instr.format : Instr → Format
  | .add .. => .integer
  | .sub .. => .integer
  | .addu .. => .integer
  | .subu .. => .integer
  | .not .. => .integer
  | .and .. => .integer
  | .or .. => .integer
  | .xor .. => .integer
  | .sal .. => .integer
  | .sar .. => .integer
  | .sll .. => .integer
  | .slr .. => .integer
  | .comp .. => .integer
  | .addi .. => .immediate
  | .subi .. => .immediate
  | .addui .. => .immediate
  | .subui .. => .immediate
  | .noti .. => .immediate
  | .andi .. => .immediate
  | .ori .. => .immediate
  | .xori .. => .immediate
  | .sali .. => .immediate
  | .sari .. => .immediate
  | .slli .. => .immediate
  | .slri .. => .immediate
  | .compi .. => .immediate
  | .lw .. => .load
  | .lh .. => .load
  | .lth .. => .load
  | .lb .. => .load
  | .sw .. => .store
  | .sh .. => .store
  | .sth .. => .store
  | .sb .. => .store
  | .li .. => .loadImmediate
  | .lsi .. => .loadImmediate
  | .lgi .. => .loadImmediate
  | .lui .. => .loadImmediate
  | .lusi .. => .loadImmediate
  | .lugi .. => .loadImmediate
  | .lni .. => .loadImmediate
  | .lnsi .. => .loadImmediate
  | .lngi .. => .loadImmediate
  | .luni .. => .loadImmediate
  | .lunsi .. => .loadImmediate
  | .lungi .. => .loadImmediate
  | .beq .. => .branch
  | .bne .. => .branch
  | .bgt .. => .branch
  | .blt .. => .branch
  | .j .. => .jump
  | .jal .. => .jumpLink
  | .jr .. => .jump
  | .jrl .. => .jumpLink
  | .syscall .. => .system
  | .sysret => .system
  | .stspr .. => .system
  | .ldspr .. => .system
  | .sync => .system
  | .lock .. => .system
  | .test .. => .system
  | .pmir .. => .system
  | .pmd .. => .system

end Sys2Proof
end

