-- ==== Sys2Proof/Machine/Fetch.lean ====
section
/-!
DEFINITION. The front end of the execution step (70_reset R355): halted, fetch alignment, fetch, decode, and what becomes of
a word that is no core instruction (30_encoding R122, 47_coprocessor R281).
-/

namespace Sys2Proof.Machine

/-- What the front end finds: an instruction to execute, or an answer of its own. -/
inductive FrontEnd where
  | run (i : Instr)
  | answer (r : Result)

/-- The memory that the fetch reads: instruction memory, or the one memory (20_memory R70, R71). -/
def fetchMemory (s : State) : Memory := if s.cfg.unifiedMemory then s.dmem else s.imem

/-- The byte at an address as the fetch sees it; none where nothing has been placed, or, in a unified memory, where the
platform backs nothing (20_memory R81; log 23). -/
def fetchByte (s : State) (a : Word) : Option Byte :=
  if s.cfg.unifiedMemory && !backed s.cfg a.toNat then none else (fetchMemory s).read a.toNat

/-- `Fetch(a)` (20_memory R73). -/
def fetchWord (s : State) (a : Word) : Option Word :=
  match fetchByte s a, fetchByte s (a + 1), fetchByte s (a + 2), fetchByte s (a + 3) with
  | some b0, some b1, some b2, some b3 => some (wordOfBytes b0 b1 b2 b3)
  | _, _, _, _ => none

/-- Was one of the four bytes at `a` stored to since the last sync (20_memory R86)? -/
def unsyncedWord (s : State) (a : Word) : Bool :=
  s.cfg.unifiedMemory &&
    (s.unsynced.contains a.toNat || s.unsynced.contains (a + 1).toNat || s.unsynced.contains (a + 2).toNat ||
      s.unsynced.contains (a + 3).toNat)

/-- Does a present co-processor claim this word (47_coprocessor R281)? -/
def coprocessorClaims (c : Config) (w : Word) : Bool := c.cpnum != 0 && c.claimedOpcodes.contains (opcodeField w)

/-- A co-processor word (47_coprocessor R281). -/
def coprocessorWord (w : Word) (s : State) : Result :=
  if coprocessorClaims s.cfg w then .refused (.coprocessorClaims w)
  else if !s.stat.spcp then .fault (.illegalInstruction s.pc w)
  else if interruptEnabled s.cfg.cpmiBit s then .next (takeInterrupt cpmiVector s)
  else .refused (.cpmiNotEnabled w)

/-- A word that decodes to no core instruction (30_encoding R122, 60_exceptions R312, 40_integer R141). -/
def rejectedWord (r : Reject) (w : Word) (s : State) : Result :=
  match r with
  | .coprocessor => coprocessorWord w s
  | .shiftField => .refused (.shiftField w)
  | .unassignedOpcode => .fault (.illegalInstruction s.pc w)
  | .reservedAluop => .fault (.illegalInstruction s.pc w)
  | .notiRsa => .fault (.illegalInstruction s.pc w)
  | .unassignedDsel => .fault (.illegalInstruction s.pc w)
  | .unassignedFunct => .fault (.illegalInstruction s.pc w)
  | .truncated => .fault (.illegalInstruction s.pc w)

/-- The decoded word (70_reset R355). -/
def decodeStage (w : Word) (s : State) : FrontEnd :=
  match decode s.cfg w with
  | .ok i => .run i
  | .error r => .answer (rejectedWord r w s)

/-- The step up to the execution of an instruction (70_reset R355, in the order of 60_exceptions R326). DESIGN CHOICE (logs 10,
23): R326 orders neither a fetch of unsynced bytes (20_memory R86) nor a fetch of bytes that are not there (R81), and the model
looks at `unsyncedFetch` before `noInstruction`. -/
def frontEnd (s : State) : FrontEnd :=
  if s.halted then .answer (.fault (.halted s.ecode s.haltInfo))
  else if misaligned 4 s.pc then .answer (.next (raiseException .misaddr s.pc s))
  else if unsyncedWord s s.pc then .answer (.refused (.unsyncedFetch s.pc))
  else
    match fetchWord s s.pc with
    | none => .answer (.fault (.noInstruction s.pc))
    | some w => decodeStage w s

/-- A memory with the four bytes of a word written, the most significant at `a`, addresses wrapping. -/
def placeWord (m : Memory) (a w : Word) : Memory :=
  (((m.write a.toNat (byteOfWord w 0)).write (a + 1).toNat (byteOfWord w 1)).write (a + 2).toNat
    (byteOfWord w 2)).write (a + 3).toNat (byteOfWord w 3)

/-- The word at the program counter as a loader would place it: in the memory that the fetch reads, its bytes synced. -/
def placeInstruction (s : State) (w : Word) : State :=
  if s.cfg.unifiedMemory then
    (s.setDmem (placeWord s.dmem s.pc w)).setUnsynced
      (s.unsynced.filter fun a =>
        a != s.pc.toNat && a != (s.pc + 1).toNat && a != (s.pc + 2).toNat && a != (s.pc + 3).toNat)
  else s.setImem (placeWord s.imem s.pc w)

end Sys2Proof.Machine
end

