-- ==== Sys2Proof/Machine/Step.lean ====
section
/-!
DEFINITION. One step of the core (70_reset R355), and the state in which a given instruction is the next to be fetched.
-/

namespace Sys2Proof.Machine

/-- One step: the front end, then the instruction it found (70_reset R355). -/
def step (s : State) : Host.Outcome State Fault Refusal :=
  match frontEnd s with
  | .run i => exec i s
  | .answer r => r

/-- `s` with the instruction whose bits are `w` stored where the next step fetches (log 23). -/
def State.withFetchWord (s : State) (nbits w : Nat) : State := placeInstruction s (BitVec.ofNat 32 (w % 2 ^ nbits))

end Sys2Proof.Machine
end

