-- ==== Sys2Proof/Machine/Macros.lean ====
section
/-!
DEFINITION. The assembler macros (46_macros): what each expands to. They have no encoding of their own.
-/

namespace Sys2Proof.Machine

/-- TMP0, the register that `call` uses (46_macros R270). -/
def tmp0 : RegNum := 22

/-- `call address_label`: the upper half of the address into TMP0, then a linking jump with the lower half, zero-extended to
21 bits, as its offset (46_macros R270). -/
def expandCall (a : Word) : List Instr :=
  [.lui tmp0 (a.extractLsb' 16 16), .jrl ((a.extractLsb' 0 16).setWidth 21) tmp0]

/-- `ret`: a jump through RA (46_macros R271). -/
def expandRet : List Instr := [.jr 0 4]

/-- `la $Rd, address_label`, in the order the source names the two instructions (46_macros R272). -/
def expandLa (rd : RegNum) (a : Word) : List Instr := [.li rd (a.extractLsb' 0 16), .lui rd (a.extractLsb' 16 16)]

end Sys2Proof.Machine
end

