-- ==== Sys2Proof/Safety.lean ====
section
/-!
DEFINITION. The terms that the claims use: the invariant of the machine, the end of a run (70_reset R356), what an
instruction leaves unchanged (the frames), and the values of the rules in plain arithmetic.
-/

namespace Sys2Proof.Machine

/-! ## Invariant -/

/-- An admissible choice of the parameters: distinct enable bits (92, open parameters), and no system call routine at the
reserved level 6, which is "never held" (10_state R43; log 38). -/
abbrev configWf (c : Config) : Prop := c.cpmiBit ≠ c.roiBit ∧ ∀ p ∈ c.syscallTable, p.2.runPml ≠ 6

/-- What holds at reset and along every run: memories and address sets in canonical form, no reserved permission level, and
no unsynced address in a machine with separate memories. -/
abbrev Inv (s : State) : Prop :=
  configWf s.cfg ∧ Memory.wf s.imem ∧ Memory.wf s.dmem ∧ addrSetWf s.locks ∧ addrSetWf s.unsynced ∧
    (s.cfg.unifiedMemory = false → s.unsynced = []) ∧ s.stat.pml ≠ 6 ∧ s.sysretPml ≠ 6

/-! ## Runs -/

/-- The core takes no step: it is halted (60_exceptions R311). -/
def isHalted (s : State) : Bool := s.halted

/-- `RUN_END` of the programs of 95_test_vectors: the next instruction is a jump to itself. -/
def atJumpToSelf (s : State) : Bool := fetchWord s s.pc == some (encode s.cfg (.j 0))

/-- A run of at most n steps under a platform's `RUN_END` predicate (70_reset R356; log 17). -/
def runUntil (ends : State → Bool) : Nat → State → Result
  | 0, s => .next s
  | n + 1, s =>
    if ends s then .next s
    else
      match step s with
      | .next t => runUntil ends n t
      | .fault r => .fault r
      | .refused r => .refused r

/-- The instruction that a step of `s` executes, if the step reaches one (70_reset R355). -/
def executes (s : State) (i : Instr) : Prop :=
  s.halted = false ∧ s.pc.toNat % 4 = 0 ∧ ∃ w, fetchWord s s.pc = some w ∧ decode s.cfg w = .ok i

/-! ## Frames -/

/-- The registers that the two banks share (10_state R27). -/
def sharedReg (r : RegNum) : Prop := 16 ≤ r.toNat ∧ r.toNat < 24

/-- The other bank. -/
def Bank.other : Bank → Bank
  | .gp => .sys
  | .sys => .gp

/-- Every register of the three files reads as before. -/
def SameRegs (s t : State) : Prop :=
  ∀ r, t.regs.readGp r = s.regs.readGp r ∧ t.regs.readSys r = s.regs.readSys r ∧ t.regs.readGlb r = s.regs.readGlb r

/-- Register `rd` of bank `b` reads `v` (0 for register 0), and every other register reads as before: all of GLBREGF, every
other number in both banks, and number `rd` in the other bank unless the banks share it. -/
def WroteReg (b : Bank) (rd : RegNum) (v : Word) (s t : State) : Prop :=
  t.regs.read b rd = (if rd = 0 then 0 else v) ∧
    (∀ r, t.regs.readGlb r = s.regs.readGlb r) ∧
    (∀ r, r ≠ rd → t.regs.readGp r = s.regs.readGp r ∧ t.regs.readSys r = s.regs.readSys r) ∧
    (¬sharedReg rd → t.regs.read b.other rd = s.regs.read b.other rd)

/-- Register `rd` of GLBREGF reads `v`, and every other register of the three files reads as before. -/
def WroteGlb (rd : RegNum) (v : Word) (s t : State) : Prop :=
  t.regs.readGlb rd = v ∧
    (∀ r, r ≠ rd → t.regs.readGlb r = s.regs.readGlb r) ∧
    ∀ r, t.regs.readGp r = s.regs.readGp r ∧ t.regs.readSys r = s.regs.readSys r

/-- The System Registers but STAT, the exception registers, the hidden state and the parameters are as before. -/
def SameSpecial (s t : State) : Prop :=
  t.cfg = s.cfg ∧ t.spr = s.spr ∧ t.ecode = s.ecode ∧ t.halted = s.halted ∧ t.haltInfo = s.haltInfo ∧
    t.sysctpValid = s.sysctpValid ∧ t.sysretPc = s.sysretPc ∧ t.sysretPml = s.sysretPml

/-- `SameSpecial`, and the bank and the locks are as before. -/
def SameControl (s t : State) : Prop := SameSpecial s t ∧ t.bank = s.bank ∧ t.locks = s.locks

/-- Every byte of data memory and of what the fetch reads is as before, and so are the unsynced addresses. -/
def SameMemory (s t : State) : Prop :=
  (∀ a, t.readByte a = s.readByte a) ∧ (∀ a, fetchByte t a = fetchByte s a) ∧ t.unsynced = s.unsynced

/-- Everything but the registers, `pc` and STAT. -/
def SameRest (s t : State) : Prop := SameControl s t ∧ SameMemory s t

/-! ## The values of the rules, in plain arithmetic -/

/-- imm12 as `IMM12_EXT` says (30_encoding R113). -/
def imm12Value (s : State) (imm : BitVec 12) : Word :=
  match s.cfg.imm12Ext with
  | .zero => BitVec.ofNat 32 imm.toNat
  | .sign => BitVec.ofInt 32 imm.toInt

/-- imm14 of a load or store as `IMM14_EXT` says (30_encoding R114). -/
def imm14Value (s : State) (imm : BitVec 14) : Word :=
  match s.cfg.imm14Ext with
  | .zero => BitVec.ofNat 32 imm.toNat
  | .sign => BitVec.ofInt 32 imm.toInt

/-- The amount a shift by `n` shifts by: none means that everything is shifted out (40_integer R141). -/
def shiftAmount (s : State) (n : Nat) : Option Nat :=
  if n ≤ 31 then some n
  else
    match s.cfg.shiftOver with
    | .literal => none
    | .mod32 => some (n % 32)

/-- The result of sal, sll, sali, slli (40_integer R150). -/
def leftShiftValue (s : State) (a : Word) (n : Nat) : Word :=
  match shiftAmount s n with
  | some k => BitVec.ofNat 32 (a.toNat * 2 ^ k)
  | none => 0

/-- The result of slr, slri (40_integer R153). -/
def logicShiftValue (s : State) (a : Word) (n : Nat) : Word :=
  match shiftAmount s n with
  | some k => BitVec.ofNat 32 (a.toNat / 2 ^ k)
  | none => 0

/-- The result of sar, sari: the floor of the signed quotient (40_integer R151). -/
def arithShiftValue (s : State) (a : Word) (n : Nat) : Word :=
  match shiftAmount s n with
  | some k => BitVec.ofInt 32 (a.toInt / 2 ^ k)
  | none => if a.toInt < 0 then 0xFFFFFFFF else 0

/-- `a` is less than `b` in the order `CMP_SIGNED` selects (40_integer R154). -/
def lessThan (s : State) (a b : Word) : Prop :=
  match s.cfg.cmpOrder with
  | .signed => a.toInt < b.toInt
  | .unsigned => a.toNat < b.toNat

/-- OV after a logic, shift or compare instruction (10_state R42). -/
def ovOtherValue (s : State) : Bool :=
  match s.cfg.ovOther with
  | .unchanged => s.stat.ov
  | .cleared => false

/-- An upper load-immediate: the imm16 above zeros, or above the old low half (43_load_immediate R201). -/
def upperLoadValue (s : State) (imm : BitVec 16) (old : Word) : Word :=
  match s.cfg.liUpperLow with
  | .zero => BitVec.ofNat 32 (imm.toNat * 2 ^ 16)
  | .preserve => BitVec.ofNat 32 (imm.toNat * 2 ^ 16 + old.toNat % 2 ^ 16)

/-- ROI is enabled (60_exceptions R321). -/
def RoiEnabled (s : State) : Prop := s.stat.gine = true ∧ s.spr.uinten.getLsbD s.cfg.roiBit.toNat = true

/-- CPMI is enabled (60_exceptions R321). -/
def CpmiEnabled (s : State) : Prop := s.stat.gine = true ∧ s.spr.uinten.getLsbD s.cfg.cpmiBit.toNat = true

/-- The platform backs the n bytes at `a` (20_memory R81). -/
def Backed (s : State) (a : Word) (n : Nat) : Prop :=
  ∀ k < n, ∀ r ∈ s.cfg.unbacked, ¬(r.base ≤ (a + BitVec.ofNat 32 k).toNat ∧ (a + BitVec.ofNat 32 k).toNat < r.base + r.size)

/-- No byte of the word at `a` was stored to since the last sync; always so with separate memories (20_memory R86). -/
def Synced (s : State) (a : Word) : Prop :=
  s.cfg.unifiedMemory = true → ∀ k < 4, (a + BitVec.ofNat 32 k).toNat ∉ s.unsynced

/-- What an exception leaves: ECODE, `halted` and the model's report, nothing else (60_exceptions R310). -/
def Raised (e : Exn) (info : Word) (s : State) : State :=
  { s with ecode := e.code, halted := true, haltInfo := info }

/-! ## The shapes of answers -/

/-- The word decodes to the instruction under the spec's opcode map (30_encoding R102, R121). -/
def DecodesTo (w : Word) (i : Instr) : Prop :=
  ∀ c : Config, c.opmap = .s83 → c.opcSys = .b001000 → decode c w = .ok i

/-- An instruction completes with result `r` in Rd, Z for the result, OV `ov`, at address `next`, and changes nothing else. -/
def AluAnswer (i : Instr) (rd : RegNum) (r : Word) (ov : Bool) (next : Word) (s : State) : Prop :=
  ∃ t, exec i s = .next t ∧ WroteReg s.bank rd r s t ∧ t.stat = { s.stat with z := decide (r = 0), ov := ov } ∧
    t.pc = next ∧ SameRest s t

/-- The instruction completes with `v` in Rd of the current bank and changes nothing else but `pc`. -/
def RegAnswer (i : Instr) (rd : RegNum) (v : Word) (s : State) : Prop :=
  ∃ t, exec i s = .next t ∧ WroteReg s.bank rd v s t ∧ t.stat = s.stat ∧ t.pc = s.pc + 4 ∧ SameRest s t

/-- The instruction completes with `v` in Rd of the named bank and changes nothing else but `pc`. -/
def FileAnswer (i : Instr) (b : Bank) (rd : RegNum) (v : Word) (s : State) : Prop :=
  ∃ t, exec i s = .next t ∧ WroteReg b rd v s t ∧ t.stat = s.stat ∧ t.pc = s.pc + 4 ∧ SameRest s t

/-- The instruction completes with `v` in Rd of GLBREGF and changes nothing else but `pc`. -/
def GlbAnswer (i : Instr) (rd : RegNum) (v : Word) (s : State) : Prop :=
  ∃ t, exec i s = .next t ∧ WroteGlb rd v s t ∧ t.stat = s.stat ∧ t.pc = s.pc + 4 ∧ SameRest s t

/-- The instruction completes, stores `bytes` from address `ea` up, and changes nothing else but `pc`; in a unified memory
the stored bytes become unsynced (20_memory R75, R86). -/
def StoreAnswer (i : Instr) (ea : Word) (bytes : List Byte) (s : State) : Prop :=
  ∃ t, exec i s = .next t ∧
    (∀ k b, bytes[k]? = some b → t.readByte (ea + BitVec.ofNat 32 k) = b) ∧
    (∀ a, (∀ k < bytes.length, a ≠ ea + BitVec.ofNat 32 k) →
      t.readByte a = s.readByte a ∧ fetchByte t a = fetchByte s a) ∧
    (s.cfg.unifiedMemory = false → (∀ a, fetchByte t a = fetchByte s a) ∧ t.unsynced = s.unsynced) ∧
    (s.cfg.unifiedMemory = true → ∀ a : Word, a.toNat ∈ t.unsynced ↔
      a.toNat ∈ s.unsynced ∨ ∃ k < bytes.length, a = ea + BitVec.ofNat 32 k) ∧
    SameRegs s t ∧ t.stat = s.stat ∧ t.pc = s.pc + 4 ∧ SameControl s t

/-- The instruction goes to `target` with no register, flag or memory byte changed. -/
def JumpAnswer (i : Instr) (target : Word) (s : State) : Prop := exec i s = .next { s with pc := target }

/-- The instruction goes to `target` with `pc + 4` in register 4 of the current bank and nothing else changed. -/
def LinkAnswer (i : Instr) (target : Word) (s : State) : Prop :=
  ∃ t, exec i s = .next t ∧ t.pc = target ∧ WroteReg s.bank 4 (s.pc + 4) s t ∧ t.stat = s.stat ∧ SameRest s t

/-- Two answers are the same stop, or two next states in a relation. -/
def AnswersAgree (R : State → State → Prop) : Result → Result → Prop
  | .next t, .next u => R t u
  | .fault q, .fault r => q = r
  | .refused q, .refused r => q = r
  | _, _ => False

end Sys2Proof.Machine
end

