-- ==== Sys2Proof/Certificates/Slice0/Obligations.lean ====
section
/-!
DEFINITION. The statements for the provers. A docstring names the rule of spec/ that a statement formalises, or, where the
statement rests on a decision of the spec (92_eei_decisions D<n>) or on a choice of this model (a log entry), says so. A
statement about an instruction gives its encoding under the spec's opcode map, with every value of an ignored field, and that
it completes, what it writes and what it leaves unchanged, under every choice of the other parameters.
-/

open Sys2Proof Sys2Proof.Machine

/-! ## Encoding -/

/-- 30_encoding R119 to R123, under both opcode maps (decisions D1, D2): decoding the word of a well-formed instruction gives
the instruction back, with every operand at every value. -/
def Obligations.DecodeOfEncodeIsTheInstruction : Prop :=
  ∀ (c : Config) (i : Instr), i.wellFormed = true → decode c (encode c i) = .ok i

/-- 30_encoding R123 (decision D8): what a word decodes to is well-formed, so jr and jrl never have base $R0. -/
def Obligations.DecodedInstructionsAreWellFormed : Prop :=
  ∀ (c : Config) (w : Word) (i : Instr), decode c w = .ok i → i.wellFormed = true

/-- Words of 95_test_vectors sections 1.1 and 2 decode to the instructions written beside them there. -/
def Obligations.WordsOfTheTestVectorsDecode : Prop :=
  decode defaultConfig 0x04611000 = .ok (.add 3 1 2) ∧ decode defaultConfig 0x0461fff4 = .ok (.not 3 1) ∧
  decode defaultConfig 0x0c61fff0 = .ok (.addi 3 1 0xfff) ∧ decode defaultConfig 0x48613ffc = .ok (.lw 3 0x3ffc 1) ∧
  decode defaultConfig 0x68211004 = .ok (.sw 2 0x0804 1) ∧ decode defaultConfig 0x0a010042 = .ok (.lsi 16 0x0042) ∧
  decode defaultConfig 0x17e117e0 = .ok (.beq 1 2 0x3ff8) ∧ decode defaultConfig 0x18202345 = .ok (.j 0x012345) ∧
  decode defaultConfig 0x1c161234 = .ok (.jrl 0x1234 22) ∧ decode defaultConfig 0x20050202 = .ok (.stspr 5 0x02) ∧
  decode defaultConfig 0x23ff04ff = .ok .sync

/-! ## The step -/

/-- 70_reset R355 (decision D36): when the four bytes at an aligned `pc` decode to an instruction, the step of a core that is
not halted is that instruction's meaning, and the step adds nothing around it. -/
def Obligations.StepExecutesTheDecodedInstruction : Prop :=
  ∀ (s : State) (b0 b1 b2 b3 : Byte) (i : Instr), s.halted = false → s.pc.toNat % 4 = 0 →
    fetchByte s s.pc = some b0 → fetchByte s (s.pc + 1) = some b1 → fetchByte s (s.pc + 2) = some b2 →
    fetchByte s (s.pc + 3) = some b3 → Synced s s.pc → decode s.cfg (b0 ++ b1 ++ b2 ++ b3) = .ok i → step s = exec i s

/-- `withFetchWord` (log 23) places an instruction so that the next step executes it, and changes no register and no byte
but the four at `pc`. -/
def Obligations.PlacedInstructionIsTheNextExecuted : Prop :=
  ∀ (s : State) (i : Instr), s.halted = false → s.pc.toNat % 4 = 0 →
    (s.cfg.unifiedMemory = true → Backed s s.pc 4) → i.wellFormed = true →
    let t := s.withFetchWord 32 (encode s.cfg i).toNat
    step t = exec i t ∧ SameRegs s t ∧ t.stat = s.stat ∧ t.pc = s.pc ∧ SameControl s t ∧
      ∀ a, (∀ k < 4, a ≠ s.pc + BitVec.ofNat 32 k) → t.readByte a = s.readByte a ∧ fetchByte t a = fetchByte s a

/-- 60_exceptions R311 (decision D24): a halted core has no step; the model's answer reports ECODE. -/
def Obligations.HaltedCoreTakesNoStep : Prop :=
  ∀ s : State, s.halted = true → step s = .fault (.halted s.ecode s.haltInfo)

/-- 20_memory R79 (decision D20): a fetch at a misaligned `pc` raises MISADDR before anything executes. -/
def Obligations.MisalignedFetchRaisesMisaddr : Prop :=
  ∀ s : State, s.halted = false → s.pc.toNat % 4 ≠ 0 → step s = .next (Raised .misaddr s.pc s)

/-- 30_encoding R122, 60_exceptions R312 (decisions D1, D2, D25): under the spec's opcode map the reserved and unassigned
encodings are illegal instructions: the step stops with that fault. -/
def Obligations.ReservedEncodingsAreIllegal : Prop :=
  ∀ (s : State) (w : Word), s.cfg.opmap = .s83 → s.cfg.opcSys = .b001000 → Synced s s.pc → s.halted = false →
    s.pc.toNat % 4 = 0 → fetchWord s s.pc = some w →
    let op := w.toNat / 2 ^ 26
    let low4 := w.toNat % 16
    let dsel := w.toNat / 2 ^ 16 % 32
    let funct := w.toNat / 2 ^ 8 % 256
    (op < 32 ∧ op ∉ [0x01, 0x02, 0x03, 0x05, 0x06, 0x07, 0x08, 0x12, 0x1a]) ∨
      (op = 0x01 ∧ 0xd ≤ low4) ∨ (op = 0x03 ∧ 0xd ≤ low4) ∨ (op = 0x03 ∧ low4 = 0x4 ∧ dsel ≠ 0) ∨
      (op = 0x02 ∧ (dsel ∈ [0x06, 0x07, 0x0e, 0x0f] ∨ 0x10 ≤ dsel)) ∨ (op = 0x08 ∧ 0x09 ≤ funct) →
    step s = .fault (.illegalInstruction s.pc w)

/-- 40_integer R141 (decision D10): a register shift with a non-zero shft field is refused. -/
def Obligations.ShiftWithShftFieldIsRefused : Prop :=
  ∀ (s : State) (rd rsa rsb : RegNum) (shft : BitVec 7) (aluop : BitVec 4), s.cfg.opmap = .s83 →
    s.cfg.opcSys = .b001000 → Synced s s.pc → s.halted = false → s.pc.toNat % 4 = 0 → shft ≠ 0 →
    (aluop = 0x8 ∨ aluop = 0x9 ∨ aluop = 0xa ∨ aluop = 0xb) →
    fetchWord s s.pc = some (0b000001#6 ++ rd ++ rsa ++ rsb ++ shft ++ aluop) →
    step s = .refused (.shiftField (0b000001#6 ++ rd ++ rsa ++ rsb ++ shft ++ aluop))

/-- 47_coprocessor R280, R281 (decisions D3, D39), 60_exceptions R323: a co-processor word that a present co-processor claims is
refused; a word that none claims is illegal with SPCP = 0, enters the CPMI slot with SPCP = 1 and the interrupt enabled, changing
`pc` only, and is refused otherwise. R281 states the unclaimed case for CPNUM = 0 only: that it is the same for an unclaimed opcode
with CPNUM not 0, and that the list `claimedOpcodes` says what is claimed, are the model's choice (log 31). -/
def Obligations.CoprocessorWordsAreIllegalOrEnterCpmi : Prop :=
  ∀ (s : State) (w : Word), s.cfg.opmap = .s83 → Synced s s.pc → s.halted = false →
    s.pc.toNat % 4 = 0 → fetchWord s s.pc = some w → 2 ^ 31 ≤ w.toNat →
    let claimed := s.cfg.cpnum ≠ 0 ∧ w.extractLsb' 26 6 ∈ s.cfg.claimedOpcodes
    (claimed → step s = .refused (.coprocessorClaims w)) ∧
    (¬claimed → s.stat.spcp = false → step s = .fault (.illegalInstruction s.pc w)) ∧
    (¬claimed → s.stat.spcp = true → CpmiEnabled s → step s = .next { s with pc := 0x00000008 }) ∧
    (¬claimed → s.stat.spcp = true → ¬CpmiEnabled s → step s = .refused (.cpmiNotEnabled w))

/-- 20_memory R86 (decision D21): in a unified memory the word just stored cannot be fetched before a sync, and a sync makes
every byte fetchable. -/
def Obligations.StoredWordIsFetchableAfterSync : Prop :=
  ∀ (s t : State) (rsb rsa : RegNum) (imm : BitVec 14), s.cfg.unifiedMemory = true → s.halted = false →
    (effectiveAddr s rsa imm).toNat % 4 = 0 → exec (.sw rsb imm rsa) s = .next t →
    step { t with pc := effectiveAddr s rsa imm } = .refused (.unsyncedFetch (effectiveAddr s rsa imm)) ∧
    ∃ u, exec .sync t = .next u ∧ u = { t with pc := t.pc + 4, unsynced := [] } ∧
      fetchWord u (effectiveAddr s rsa imm) = some (s.readReg rsb)

/-! ## Registers -/

/-- 10_state R24 to R27 (decisions D16, D18): register 0 reads 0 and discards writes in both banks, registers 16 to 23 are
one storage, a write is read back, and it touches no other register. -/
def Obligations.RegisterFilesReadAndWrite : Prop :=
  ∀ (s : State) (f : RegFiles) (r : RegNum) (v : Word),
    f.readGp 0 = 0 ∧ f.readSys 0 = 0 ∧ (sharedReg r → f.readGp r = f.readSys r) ∧
    WroteReg .gp r v s (s.writeGp r v) ∧ WroteReg .sys r v s (s.writeSys r v) ∧ WroteGlb r v s (s.writeGlb r v)

/-! ## The Integer and Immediate families -/

/-- 40_integer R142, 41_immediate R162, for both values of `IMM12_EXT` (decision D5 gives the default): add and addi write the
sum modulo 2^32, Z for it and the carry into OV; the ROI slot (decision D26) is entered if OV became 1 and ROI is enabled. -/
def Obligations.AddAndAddiWriteSumZAndCarry : Prop :=
  ∀ (s : State) (rd rsa rsb : RegNum) (imm : BitVec 12),
    (∀ shft : BitVec 7, DecodesTo (0b000001#6 ++ rd ++ rsa ++ rsb ++ shft ++ 0x0#4) (.add rd rsa rsb)) ∧
    DecodesTo (0b000011#6 ++ rd ++ rsa ++ imm ++ 0x0#4) (.addi rd rsa imm) ∧
    let sum := (s.readReg rsa).toNat + (s.readReg rsb).toNat
    let sumi := (s.readReg rsa).toNat + (imm12Value s imm).toNat
    AluAnswer (.add rd rsa rsb) rd (BitVec.ofNat 32 sum) (decide (2 ^ 32 ≤ sum))
      (open Classical in if RoiEnabled s ∧ 2 ^ 32 ≤ sum then 0x00000010 else s.pc + 4) s ∧
    AluAnswer (.addi rd rsa imm) rd (BitVec.ofNat 32 sumi) (decide (2 ^ 32 ≤ sumi))
      (open Classical in if RoiEnabled s ∧ 2 ^ 32 ≤ sumi then 0x00000010 else s.pc + 4) s

/-- 40_integer R143, 41_immediate R163 (decision D13: OV is the borrow): sub and subi. -/
def Obligations.SubAndSubiWriteDifferenceZAndBorrow : Prop :=
  ∀ (s : State) (rd rsa rsb : RegNum) (imm : BitVec 12),
    (∀ shft : BitVec 7, DecodesTo (0b000001#6 ++ rd ++ rsa ++ rsb ++ shft ++ 0x1#4) (.sub rd rsa rsb)) ∧
    DecodesTo (0b000011#6 ++ rd ++ rsa ++ imm ++ 0x1#4) (.subi rd rsa imm) ∧
    let a := (s.readReg rsa).toNat
    let b := (s.readReg rsb).toNat
    let m := (imm12Value s imm).toNat
    AluAnswer (.sub rd rsa rsb) rd (BitVec.ofInt 32 (a - b)) (decide (a < b))
      (open Classical in if RoiEnabled s ∧ a < b then 0x00000010 else s.pc + 4) s ∧
    AluAnswer (.subi rd rsa imm) rd (BitVec.ofInt 32 (a - m)) (decide (a < m))
      (open Classical in if RoiEnabled s ∧ a < m then 0x00000010 else s.pc + 4) s

/-- 40_integer R144, R145: addu and subu give the results of add and sub, write Z, leave OV and never cause ROI. -/
def Obligations.AdduAndSubuLeaveOv : Prop :=
  ∀ (s : State) (rd rsa rsb : RegNum),
    (∀ shft : BitVec 7, DecodesTo (0b000001#6 ++ rd ++ rsa ++ rsb ++ shft ++ 0x2#4) (.addu rd rsa rsb)) ∧
    (∀ shft : BitVec 7, DecodesTo (0b000001#6 ++ rd ++ rsa ++ rsb ++ shft ++ 0x3#4) (.subu rd rsa rsb)) ∧
    let a := (s.readReg rsa).toNat
    let b := (s.readReg rsb).toNat
    AluAnswer (.addu rd rsa rsb) rd (BitVec.ofNat 32 (a + b)) s.stat.ov (s.pc + 4) s ∧
    AluAnswer (.subu rd rsa rsb) rd (BitVec.ofInt 32 (a - b)) s.stat.ov (s.pc + 4) s

/-- 41_immediate R164, R165, for both values of `IMM12_EXT` (decision D5 gives the default): addui and subui. -/
def Obligations.AdduiAndSubuiLeaveOv : Prop :=
  ∀ (s : State) (rd rsa : RegNum) (imm : BitVec 12),
    DecodesTo (0b000011#6 ++ rd ++ rsa ++ imm ++ 0x2#4) (.addui rd rsa imm) ∧
    DecodesTo (0b000011#6 ++ rd ++ rsa ++ imm ++ 0x3#4) (.subui rd rsa imm) ∧
    let a := (s.readReg rsa).toNat
    let m := (imm12Value s imm).toNat
    AluAnswer (.addui rd rsa imm) rd (BitVec.ofNat 32 (a + m)) s.stat.ov (s.pc + 4) s ∧
    AluAnswer (.subui rd rsa imm) rd (BitVec.ofInt 32 (a - m)) s.stat.ov (s.pc + 4) s

/-- 40_integer R147 to R149: and, or, xor write the result, bit by bit, and Z; OV is as `OV_OTHER` says. -/
def Obligations.LogicInstructionsWriteEachBit : Prop :=
  ∀ (s : State) (rd rsa rsb : RegNum) (shft : BitVec 7),
    DecodesTo (0b000001#6 ++ rd ++ rsa ++ rsb ++ shft ++ 0x5#4) (.and rd rsa rsb) ∧
    DecodesTo (0b000001#6 ++ rd ++ rsa ++ rsb ++ shft ++ 0x6#4) (.or rd rsa rsb) ∧
    DecodesTo (0b000001#6 ++ rd ++ rsa ++ rsb ++ shft ++ 0x7#4) (.xor rd rsa rsb) ∧
    let a := s.readReg rsa
    let b := s.readReg rsb
    (∀ r : Word, (∀ k < 32, r.getLsbD k = (a.getLsbD k && b.getLsbD k)) →
      AluAnswer (.and rd rsa rsb) rd r (ovOtherValue s) (s.pc + 4) s) ∧
    (∀ r : Word, (∀ k < 32, r.getLsbD k = (a.getLsbD k || b.getLsbD k)) →
      AluAnswer (.or rd rsa rsb) rd r (ovOtherValue s) (s.pc + 4) s) ∧
    (∀ r : Word, (∀ k < 32, r.getLsbD k = (a.getLsbD k ^^ b.getLsbD k)) →
      AluAnswer (.xor rd rsa rsb) rd r (ovOtherValue s) (s.pc + 4) s)

/-- 41_immediate R167 to R169 (decision D5: imm12 is zero-extended): andi, ori, xori. -/
def Obligations.LogicImmediatesWriteEachBit : Prop :=
  ∀ (s : State) (rd rsa : RegNum) (imm : BitVec 12),
    DecodesTo (0b000011#6 ++ rd ++ rsa ++ imm ++ 0x5#4) (.andi rd rsa imm) ∧
    DecodesTo (0b000011#6 ++ rd ++ rsa ++ imm ++ 0x6#4) (.ori rd rsa imm) ∧
    DecodesTo (0b000011#6 ++ rd ++ rsa ++ imm ++ 0x7#4) (.xori rd rsa imm) ∧
    let a := s.readReg rsa
    (∀ r : Word, (∀ k < 32, r.getLsbD k = (a.getLsbD k && imm.getLsbD k)) →
      AluAnswer (.andi rd rsa imm) rd r (ovOtherValue s) (s.pc + 4) s) ∧
    (∀ r : Word, (∀ k < 32, r.getLsbD k = (a.getLsbD k || imm.getLsbD k)) →
      AluAnswer (.ori rd rsa imm) rd r (ovOtherValue s) (s.pc + 4) s) ∧
    (∀ r : Word, (∀ k < 32, r.getLsbD k = (a.getLsbD k ^^ imm.getLsbD k)) →
      AluAnswer (.xori rd rsa imm) rd r (ovOtherValue s) (s.pc + 4) s)

/-- 40_integer R146, 41_immediate R166 (decision D15: the bitwise complement): not ignores rsb and shft, noti has rsa 0. With
`IMM12_EXT = sign` the operand of noti is sign-extended too: the model's DESIGN CHOICE (log 4), for 30_encoding R113 and decision
D5 do not name noti. -/
def Obligations.NotAndNotiComplementEachBit : Prop :=
  ∀ (s : State) (rd rsa : RegNum) (imm : BitVec 12),
    (∀ junk : BitVec 12, DecodesTo (0b000001#6 ++ rd ++ rsa ++ junk ++ 0x4#4) (.not rd rsa)) ∧
    DecodesTo (0b000011#6 ++ rd ++ 0#5 ++ imm ++ 0x4#4) (.noti rd imm) ∧
    (∀ r : Word, (∀ k < 32, r.getLsbD k = !(s.readReg rsa).getLsbD k) →
      AluAnswer (.not rd rsa) rd r (ovOtherValue s) (s.pc + 4) s) ∧
    (∀ r : Word, (∀ k < 32, r.getLsbD k = !(imm12Value s imm).getLsbD k) →
      AluAnswer (.noti rd imm) rd r (ovOtherValue s) (s.pc + 4) s)

/-- 40_integer R150, R152, 41_immediate R170, R172 (decisions D10, D11; both values of `SHIFT_OVER`): the left shifts. -/
def Obligations.LeftShiftsMultiplyByPowersOfTwo : Prop :=
  ∀ (s : State) (rd rsa rsb : RegNum) (imm : BitVec 12),
    DecodesTo (0b000001#6 ++ rd ++ rsa ++ rsb ++ 0#7 ++ 0x8#4) (.sal rd rsa rsb) ∧
    DecodesTo (0b000001#6 ++ rd ++ rsa ++ rsb ++ 0#7 ++ 0xa#4) (.sll rd rsa rsb) ∧
    DecodesTo (0b000011#6 ++ rd ++ rsa ++ imm ++ 0x8#4) (.sali rd rsa imm) ∧
    DecodesTo (0b000011#6 ++ rd ++ rsa ++ imm ++ 0xa#4) (.slli rd rsa imm) ∧
    let byReg := leftShiftValue s (s.readReg rsa) (s.readReg rsb).toNat
    let byImm := leftShiftValue s (s.readReg rsa) imm.toNat
    AluAnswer (.sal rd rsa rsb) rd byReg (ovOtherValue s) (s.pc + 4) s ∧
    AluAnswer (.sll rd rsa rsb) rd byReg (ovOtherValue s) (s.pc + 4) s ∧
    AluAnswer (.sali rd rsa imm) rd byImm (ovOtherValue s) (s.pc + 4) s ∧
    AluAnswer (.slli rd rsa imm) rd byImm (ovOtherValue s) (s.pc + 4) s

/-- 40_integer R151, R153, 41_immediate R171, R173 (decisions D10, D11; both values of `SHIFT_OVER`): the right shifts are
floors of the unsigned and of the signed quotient by a power of two. -/
def Obligations.RightShiftsDivideByPowersOfTwo : Prop :=
  ∀ (s : State) (rd rsa rsb : RegNum) (imm : BitVec 12),
    DecodesTo (0b000001#6 ++ rd ++ rsa ++ rsb ++ 0#7 ++ 0x9#4) (.sar rd rsa rsb) ∧
    DecodesTo (0b000001#6 ++ rd ++ rsa ++ rsb ++ 0#7 ++ 0xb#4) (.slr rd rsa rsb) ∧
    DecodesTo (0b000011#6 ++ rd ++ rsa ++ imm ++ 0x9#4) (.sari rd rsa imm) ∧
    DecodesTo (0b000011#6 ++ rd ++ rsa ++ imm ++ 0xb#4) (.slri rd rsa imm) ∧
    let a := s.readReg rsa
    let n := (s.readReg rsb).toNat
    AluAnswer (.sar rd rsa rsb) rd (arithShiftValue s a n) (ovOtherValue s) (s.pc + 4) s ∧
    AluAnswer (.slr rd rsa rsb) rd (logicShiftValue s a n) (ovOtherValue s) (s.pc + 4) s ∧
    AluAnswer (.sari rd rsa imm) rd (arithShiftValue s a imm.toNat) (ovOtherValue s) (s.pc + 4) s ∧
    AluAnswer (.slri rd rsa imm) rd (logicShiftValue s a imm.toNat) (ovOtherValue s) (s.pc + 4) s

/-- 40_integer R154, 41_immediate R174 (decisions D5, D12; both values of `CMP_SIGNED`): comp and compi give 0, 1 or -1. -/
def Obligations.CompAndCompiOrderTheirOperands : Prop :=
  ∀ (s : State) (rd rsa rsb : RegNum) (imm : BitVec 12),
    (∀ shft : BitVec 7, DecodesTo (0b000001#6 ++ rd ++ rsa ++ rsb ++ shft ++ 0xc#4) (.comp rd rsa rsb)) ∧
    DecodesTo (0b000011#6 ++ rd ++ rsa ++ imm ++ 0xc#4) (.compi rd rsa imm) ∧
    let a := s.readReg rsa
    let b := s.readReg rsb
    let m := imm12Value s imm
    (a = b → AluAnswer (.comp rd rsa rsb) rd 0x00000000 (ovOtherValue s) (s.pc + 4) s) ∧
    (lessThan s b a → AluAnswer (.comp rd rsa rsb) rd 0x00000001 (ovOtherValue s) (s.pc + 4) s) ∧
    (lessThan s a b → AluAnswer (.comp rd rsa rsb) rd 0xFFFFFFFF (ovOtherValue s) (s.pc + 4) s) ∧
    (a = m → AluAnswer (.compi rd rsa imm) rd 0x00000000 (ovOtherValue s) (s.pc + 4) s) ∧
    (lessThan s m a → AluAnswer (.compi rd rsa imm) rd 0x00000001 (ovOtherValue s) (s.pc + 4) s) ∧
    (lessThan s a m → AluAnswer (.compi rd rsa imm) rd 0xFFFFFFFF (ovOtherValue s) (s.pc + 4) s)

/-! ## Loads and stores -/

/-- 42_load_store R180, R182 to R185 (decisions D20: alignment, D24: raising; both values of `IMM14_EXT`, decision D6 giving the
default): the loads read big endian and zero-extended from the base register plus the offset; an address that is not aligned
raises MISADDR and changes nothing else, and lb takes every address. -/
def Obligations.LoadsReadBigEndianAndZeroExtend : Prop :=
  ∀ (s : State) (rd rsa : RegNum) (imm : BitVec 14),
    DecodesTo (0b010010#6 ++ rd ++ rsa ++ 0b00#2 ++ imm) (.lw rd imm rsa) ∧
    DecodesTo (0b010010#6 ++ rd ++ rsa ++ 0b01#2 ++ imm) (.lh rd imm rsa) ∧
    DecodesTo (0b010010#6 ++ rd ++ rsa ++ 0b10#2 ++ imm) (.lth rd imm rsa) ∧
    DecodesTo (0b010010#6 ++ rd ++ rsa ++ 0b11#2 ++ imm) (.lb rd imm rsa) ∧
    let ea := s.readReg rsa + imm14Value s imm
    let byte := fun k : Word => s.readByte (ea + k)
    (ea.toNat % 4 = 0 → Backed s ea 4 → RegAnswer (.lw rd imm rsa) rd (byte 0 ++ byte 1 ++ byte 2 ++ byte 3) s) ∧
    (ea.toNat % 4 ≠ 0 → exec (.lw rd imm rsa) s = .next (Raised .misaddr ea s)) ∧
    (ea.toNat % 2 = 0 → Backed s ea 2 → RegAnswer (.lh rd imm rsa) rd (0#16 ++ byte 0 ++ byte 1) s) ∧
    (ea.toNat % 2 ≠ 0 → exec (.lh rd imm rsa) s = .next (Raised .misaddr ea s)) ∧
    (ea.toNat % 4 = 0 → Backed s ea 3 → RegAnswer (.lth rd imm rsa) rd (0#8 ++ byte 0 ++ byte 1 ++ byte 2) s) ∧
    (ea.toNat % 4 ≠ 0 → exec (.lth rd imm rsa) s = .next (Raised .misaddr ea s)) ∧
    (Backed s ea 1 → RegAnswer (.lb rd imm rsa) rd (0#24 ++ byte 0) s)

/-- 42_load_store R180, R186 to R189 (decisions D20: alignment, D24: raising; both values of `IMM14_EXT`, decision D6 giving the
default): the stores put the low bytes of RSb big endian at the base register plus the split offset and change no other byte; an
address that is not aligned raises MISADDR and writes nothing, and sb takes every address. -/
def Obligations.StoresWriteBigEndianAndNothingElse : Prop :=
  ∀ (s : State) (rsb rsa : RegNum) (imm : BitVec 14),
    let word := fun funct : BitVec 2 => 0b011010#6 ++ funct ++ imm.extractLsb' 11 3 ++ rsa ++ rsb ++ imm.extractLsb' 0 11
    DecodesTo (word 0b00) (.sw rsb imm rsa) ∧ DecodesTo (word 0b01) (.sh rsb imm rsa) ∧
    DecodesTo (word 0b10) (.sth rsb imm rsa) ∧ DecodesTo (word 0b11) (.sb rsb imm rsa) ∧
    let ea := effectiveAddr s rsa imm
    let v := s.readReg rsb
    ea = s.readReg rsa + imm14Value s imm ∧
    (ea.toNat % 4 = 0 → Backed s ea 4 → StoreAnswer (.sw rsb imm rsa) ea
      [v.extractLsb' 24 8, v.extractLsb' 16 8, v.extractLsb' 8 8, v.extractLsb' 0 8] s) ∧
    (ea.toNat % 4 ≠ 0 → exec (.sw rsb imm rsa) s = .next (Raised .misaddr ea s)) ∧
    (ea.toNat % 2 = 0 → Backed s ea 2 →
      StoreAnswer (.sh rsb imm rsa) ea [v.extractLsb' 8 8, v.extractLsb' 0 8] s) ∧
    (ea.toNat % 2 ≠ 0 → exec (.sh rsb imm rsa) s = .next (Raised .misaddr ea s)) ∧
    (ea.toNat % 4 = 0 → Backed s ea 3 → StoreAnswer (.sth rsb imm rsa) ea
      [v.extractLsb' 16 8, v.extractLsb' 8 8, v.extractLsb' 0 8] s) ∧
    (ea.toNat % 4 ≠ 0 → exec (.sth rsb imm rsa) s = .next (Raised .misaddr ea s)) ∧
    (Backed s ea 1 → StoreAnswer (.sb rsb imm rsa) ea [v.extractLsb' 0 8] s)

/-- 20_memory R81 (decision D22): an aligned load or store that touches an address the platform does not back is stuck. That an
access of several bytes is stuck, and writes nothing, where only some of its bytes are unbacked, and that one set of addresses serves
loads and stores, are the model's DESIGN CHOICE (log 24). -/
def Obligations.UnbackedAccessIsStuck : Prop :=
  ∀ (s : State) (rd rsa : RegNum) (imm : BitVec 14),
    let ea := effectiveAddr s rsa imm
    (ea.toNat % 4 = 0 → ¬Backed s ea 4 → exec (.lw rd imm rsa) s = .fault (.unbackedAccess ea) ∧
      exec (.sw rd imm rsa) s = .fault (.unbackedAccess ea)) ∧
    (ea.toNat % 2 = 0 → ¬Backed s ea 2 → exec (.lh rd imm rsa) s = .fault (.unbackedAccess ea) ∧
      exec (.sh rd imm rsa) s = .fault (.unbackedAccess ea)) ∧
    (ea.toNat % 4 = 0 → ¬Backed s ea 3 → exec (.lth rd imm rsa) s = .fault (.unbackedAccess ea) ∧
      exec (.sth rd imm rsa) s = .fault (.unbackedAccess ea)) ∧
    (¬Backed s ea 1 → exec (.lb rd imm rsa) s = .fault (.unbackedAccess ea) ∧
      exec (.sb rd imm rsa) s = .fault (.unbackedAccess ea))

/-- 42_load_store R190, 20_memory R76 (derived there), for every base register and offset of the load: what a store writes, the
load of the same width at its address reads back, and a narrower load inside the stored bytes reads its bytes, the first the most
significant: after sw, lb at the address plus 0 to 3 and lh at it plus 0 and 2. For rd = 0 a load writes nothing (10_state R25,
LoadsReadBigEndianAndZeroExtend). -/
def Obligations.LoadsReadBackWhatStoresWrote : Prop :=
  ∀ (s t : State) (rd rsb rsa base : RegNum) (imm off : BitVec 14), rd ≠ 0 → t.halted = false →
    let v := s.readReg rsb
    let k := (effectiveAddr t base off - effectiveAddr s rsa imm).toNat
    let reads := fun (i : Instr) (w : Word) => ∃ u, exec i t = .next u ∧ u.readReg rd = w
    (exec (.sw rsb imm rsa) s = .next t →
      (k = 0 → reads (.lw rd off base) v ∧ reads (.lth rd off base) (v >>> 8) ∧ reads (.lh rd off base) (v >>> 16)) ∧
      (k = 2 → reads (.lh rd off base) (v &&& 0xFFFF)) ∧
      (k < 4 → reads (.lb rd off base) ((v >>> (24 - 8 * k)) &&& 0xFF))) ∧
    (exec (.sth rsb imm rsa) s = .next t →
      (k = 0 → reads (.lth rd off base) (v &&& 0xFFFFFF) ∧ reads (.lh rd off base) ((v >>> 8) &&& 0xFFFF)) ∧
      (k < 3 → reads (.lb rd off base) ((v >>> (16 - 8 * k)) &&& 0xFF))) ∧
    (exec (.sh rsb imm rsa) s = .next t →
      (k = 0 → reads (.lh rd off base) (v &&& 0xFFFF)) ∧
      (k < 2 → reads (.lb rd off base) ((v >>> (8 - 8 * k)) &&& 0xFF))) ∧
    (exec (.sb rsb imm rsa) s = .next t → k = 0 → reads (.lb rd off base) (v &&& 0xFF))

/-! ## Load Immediate -/

/-- 43_load_immediate R200 to R203, R205, R206, R208, R209, R211, R212 (decisions D16 to D18; both values of `LI_UPPER_LOW`): li,
lui, lni, luni write GPREGF and lsi, lusi, lnsi, lunsi SYSREGF, whatever the bank. -/
def Obligations.BankImmediatesWriteTheNamedFile : Prop :=
  ∀ (s : State) (rd : RegNum) (imm : BitVec 16),
    DecodesTo (0b000010#6 ++ rd ++ 0x00#5 ++ imm) (.li rd imm) ∧ DecodesTo (0b000010#6 ++ rd ++ 0x01#5 ++ imm) (.lsi rd imm) ∧
    DecodesTo (0b000010#6 ++ rd ++ 0x03#5 ++ imm) (.lui rd imm) ∧ DecodesTo (0b000010#6 ++ rd ++ 0x04#5 ++ imm) (.lusi rd imm) ∧
    DecodesTo (0b000010#6 ++ rd ++ 0x08#5 ++ imm) (.lni rd imm) ∧ DecodesTo (0b000010#6 ++ rd ++ 0x09#5 ++ imm) (.lnsi rd imm) ∧
    DecodesTo (0b000010#6 ++ rd ++ 0x0b#5 ++ imm) (.luni rd imm) ∧
    DecodesTo (0b000010#6 ++ rd ++ 0x0c#5 ++ imm) (.lunsi rd imm) ∧
    FileAnswer (.li rd imm) .gp rd (BitVec.ofInt 32 imm.toInt) s ∧
    FileAnswer (.lsi rd imm) .sys rd (BitVec.ofInt 32 imm.toInt) s ∧
    FileAnswer (.lni rd imm) .gp rd (BitVec.ofNat 32 imm.toNat) s ∧
    FileAnswer (.lnsi rd imm) .sys rd (BitVec.ofNat 32 imm.toNat) s ∧
    FileAnswer (.lui rd imm) .gp rd (upperLoadValue s imm (s.regs.readGp rd)) s ∧
    FileAnswer (.lusi rd imm) .sys rd (upperLoadValue s imm (s.regs.readSys rd)) s ∧
    FileAnswer (.luni rd imm) .gp rd (upperLoadValue s imm (s.regs.readGp rd)) s ∧
    FileAnswer (.lunsi rd imm) .sys rd (upperLoadValue s imm (s.regs.readSys rd)) s

/-- 43_load_immediate R200, R201, R204, R207, R210, R213 (decisions D17, D18; both values of `LI_UPPER_LOW`): lgi, lugi, lngi,
lungi write GLBREGF, register 0 included. -/
def Obligations.GlbregfImmediates : Prop :=
  ∀ (s : State) (rd : RegNum) (imm : BitVec 16),
    DecodesTo (0b000010#6 ++ rd ++ 0x02#5 ++ imm) (.lgi rd imm) ∧ DecodesTo (0b000010#6 ++ rd ++ 0x05#5 ++ imm) (.lugi rd imm) ∧
    DecodesTo (0b000010#6 ++ rd ++ 0x0a#5 ++ imm) (.lngi rd imm) ∧
    DecodesTo (0b000010#6 ++ rd ++ 0x0d#5 ++ imm) (.lungi rd imm) ∧
    GlbAnswer (.lgi rd imm) rd (BitVec.ofInt 32 imm.toInt) s ∧
    GlbAnswer (.lngi rd imm) rd (BitVec.ofNat 32 imm.toNat) s ∧
    GlbAnswer (.lugi rd imm) rd (upperLoadValue s imm (s.regs.readGlb rd)) s ∧
    GlbAnswer (.lungi rd imm) rd (upperLoadValue s imm (s.regs.readGlb rd)) s

/-! ## Branches and jumps -/

/-- 44_branch_jump R222, R223: beq and bne go to `pc` plus the sign-extended split offset when their condition holds, else to
the next instruction, and change nothing else. -/
def Obligations.EqualityBranches : Prop :=
  ∀ (s : State) (rsa rsb : RegNum) (imm : BitVec 14),
    let word := fun funct : BitVec 2 => 0b000101#6 ++ imm.extractLsb' 9 5 ++ rsa ++ rsb ++ imm.extractLsb' 0 9 ++ funct
    DecodesTo (word 0b00) (.beq rsa rsb imm) ∧ DecodesTo (word 0b01) (.bne rsa rsb imm) ∧
    let target := s.pc + BitVec.ofInt 32 imm.toInt
    (s.readReg rsa = s.readReg rsb →
      JumpAnswer (.beq rsa rsb imm) target s ∧ JumpAnswer (.bne rsa rsb imm) (s.pc + 4) s) ∧
    (s.readReg rsa ≠ s.readReg rsb →
      JumpAnswer (.beq rsa rsb imm) (s.pc + 4) s ∧ JumpAnswer (.bne rsa rsb imm) target s)

/-- 44_branch_jump R224, R225 (decision D12; both values of `CMP_SIGNED`): bgt and blt. -/
def Obligations.OrderBranches : Prop :=
  ∀ (s : State) (rsa rsb : RegNum) (imm : BitVec 14),
    let word := fun funct : BitVec 2 => 0b000101#6 ++ imm.extractLsb' 9 5 ++ rsa ++ rsb ++ imm.extractLsb' 0 9 ++ funct
    DecodesTo (word 0b10) (.bgt rsa rsb imm) ∧ DecodesTo (word 0b11) (.blt rsa rsb imm) ∧
    let a := s.readReg rsa
    let b := s.readReg rsb
    let target := s.pc + BitVec.ofInt 32 imm.toInt
    (lessThan s b a → JumpAnswer (.bgt rsa rsb imm) target s) ∧
    (¬lessThan s b a → JumpAnswer (.bgt rsa rsb imm) (s.pc + 4) s) ∧
    (lessThan s a b → JumpAnswer (.blt rsa rsb imm) target s) ∧
    (¬lessThan s a b → JumpAnswer (.blt rsa rsb imm) (s.pc + 4) s)

/-- 44_branch_jump R226, R228 (decisions D7, D8): j is relative to its own address, jr to a register other than $R0. -/
def Obligations.JumpsWithoutLink : Prop :=
  ∀ (s : State) (rsa : RegNum) (imm : BitVec 21),
    let word := fun r : RegNum => 0b000110#6 ++ imm.extractLsb' 16 5 ++ r ++ imm.extractLsb' 0 16
    DecodesTo (word 0) (.j imm) ∧ (rsa ≠ 0 → DecodesTo (word rsa) (.jr imm rsa)) ∧
    JumpAnswer (.j imm) (s.pc + BitVec.ofInt 32 imm.toInt) s ∧
    JumpAnswer (.jr imm rsa) (s.readReg rsa + BitVec.ofInt 32 imm.toInt) s

/-- 44_branch_jump R227, R229 (decisions D7 to D9): jal and jrl put `pc + 4` into register 4 of the current bank; jrl reads its
base before. -/
def Obligations.JumpsWithLink : Prop :=
  ∀ (s : State) (rsa : RegNum) (imm : BitVec 21),
    let word := fun r : RegNum => 0b000111#6 ++ imm.extractLsb' 16 5 ++ r ++ imm.extractLsb' 0 16
    DecodesTo (word 0) (.jal imm) ∧ (rsa ≠ 0 → DecodesTo (word rsa) (.jrl imm rsa)) ∧
    LinkAnswer (.jal imm) (s.pc + BitVec.ofInt 32 imm.toInt) s ∧
    LinkAnswer (.jrl imm rsa) (s.readReg rsa + BitVec.ofInt 32 imm.toInt) s

/-! ## Macros -/

/-- 46_macros R270, in either bank, with `LI_UPPER_LOW = zero` (decision D17) or with the low half of TMP0 zero: the two
instructions of `call A` end at A with the return address after the pair in register 4 and the upper half of A in TMP0, and
change nothing else. -/
def Obligations.CallMacroReachesItsLabel : Prop :=
  ∀ (s : State) (a : Word) (i1 i2 : Instr), s.cfg.liUpperLow = .zero ∨ (s.regs.readGp 22).toNat % 2 ^ 16 = 0 →
    expandCall a = [i1, i2] →
    i1.wellFormed = true ∧ i2.wellFormed = true ∧
    ∃ t u, exec i1 s = .next t ∧ exec i2 t = .next u ∧ u.pc = a ∧ u.readReg 4 = s.pc + 8 ∧
      u.regs.readGp 22 = BitVec.ofNat 32 (a.toNat / 2 ^ 16 * 2 ^ 16) ∧
      (∀ r, r ≠ 4 → r ≠ 22 → u.regs.readGp r = s.regs.readGp r ∧ u.regs.readSys r = s.regs.readSys r) ∧
      u.regs.read s.bank.other 4 = s.regs.read s.bank.other 4 ∧
      (∀ r, u.regs.readGlb r = s.regs.readGlb r) ∧ u.stat = s.stat ∧ SameRest s u

/-- 46_macros R271: `ret` is one jr with no immediate offset through RA: the next address is x[4], and nothing else
changes. -/
def Obligations.RetMacroJumpsThroughRa : Prop :=
  ∀ s : State, ∃ i, expandRet = [i] ∧ DecodesTo 0x18040000 i ∧ JumpAnswer i (s.readReg 4) s

/-! ## The System family -/

/-- 45_system R241 (decision D38): an accepted syscall enters the routine. The level is raised and never lowered, PEMA is set,
the return pair saved, the bank switched, and nothing else changes. -/
def Obligations.AcceptedSyscallEntersTheRoutine : Prop :=
  ∀ (s : State) (n : BitVec 8) (e : SyscallEntry),
    (∀ junk : BitVec 10, DecodesTo (0b001000#6 ++ junk ++ 0x00#8 ++ n) (.syscall n)) ∧
    (s.sysctpValid = true → s.cfg.syscallTable.lookup n = some e → e.minPml.toNat ≤ s.pml.toNat →
      ∃ t, exec (.syscall n) s = .next t ∧ t.pc = e.addr ∧ t.bank = .sys ∧ t.sysretPc = s.pc + 4 ∧ t.sysretPml = s.pml ∧
        t.pml.toNat = max s.pml.toNat e.runPml.toNat ∧ t.pema = true ∧ t.stat.z = s.stat.z ∧ t.stat.ov = s.stat.ov ∧
        t.stat.gine = s.stat.gine ∧ t.stat.spcp = s.stat.spcp ∧ SameRegs s t ∧ t.cfg = s.cfg ∧ t.spr = s.spr ∧
        t.ecode = s.ecode ∧ t.halted = s.halted ∧ t.haltInfo = s.haltInfo ∧ t.sysctpValid = s.sysctpValid ∧
        t.locks = s.locks ∧ SameMemory s t)

/-- 45_system R241 (decisions D28, D38): a syscall with no table or no entry raises INVSYS, one below the entry's level
INSFPEM; PEMA is cleared and nothing else changes. -/
def Obligations.RejectedSyscallClearsPemaAndRaises : Prop :=
  ∀ (s : State) (n : BitVec 8),
    let cleared := if s.cfg.hasPml then { s with stat := { s.stat with pema := false } } else s
    (s.sysctpValid = false → exec (.syscall n) s = .next (Raised .invsys (n.setWidth 32) cleared)) ∧
    (s.sysctpValid = true → s.cfg.syscallTable.lookup n = none →
      exec (.syscall n) s = .next (Raised .invsys (n.setWidth 32) cleared)) ∧
    (∀ e, s.sysctpValid = true → s.cfg.syscallTable.lookup n = some e → s.pml.toNat < e.minPml.toNat →
      exec (.syscall n) s = .next (Raised .insfpem (n.setWidth 32) cleared))

/-- 45_system R242 (decision D38): sysret restores the bank, the level and the address, and nothing else changes; with no system
call in progress it is refused. -/
def Obligations.SysretRestoresTheCaller : Prop :=
  ∀ s : State,
    (∀ (junk : BitVec 10) (low : BitVec 8), DecodesTo (0b001000#6 ++ junk ++ 0x01#8 ++ low) .sysret) ∧
    (s.bank = .sys → ∃ t, exec .sysret s = .next t ∧ t.pc = s.sysretPc ∧ t.bank = .gp ∧
      (s.cfg.hasPml = true → t.stat = { s.stat with pml := s.sysretPml }) ∧ (s.cfg.hasPml = false → t.stat = s.stat) ∧
      SameRegs s t ∧ SameSpecial s t ∧ t.locks = s.locks ∧ SameMemory s t) ∧
    (s.bank = .gp → exec .sysret s = .refused .sysretOutsideSyscall)

/-- 45_system R241, R242, 10_state R27 (decisions D18, D38): a routine that keeps the return pair gives the caller back its
address, its level and its bank, its results in registers 16 to 23, and each private register whose GPREGF storage the routine
left as it was. That last hypothesis is needed: in bank SYS a routine can still write a private register of the caller by li, lui,
lni or luni (43_load_immediate R200). -/
def Obligations.SyscallThenSysretReturnsToTheCaller : Prop :=
  ∀ (s t u : State) (n : BitVec 8), s.bank = .gp → exec (.syscall n) s = .next t → t.halted = false →
    u.cfg = t.cfg → u.bank = .sys → u.sysretPc = t.sysretPc → u.sysretPml = t.sysretPml →
    ∃ v, exec .sysret u = .next v ∧ v.pc = s.pc + 4 ∧ v.pml = s.pml ∧ v.bank = .gp ∧
      (∀ r, ¬sharedReg r → u.regs.readGp r = t.regs.readGp r → v.readReg r = s.readReg r) ∧ (∀ r, sharedReg r → v.readReg r = u.readReg r)

/-- 10_state R37 to R39, 45_system R243, R244 (decisions D30, D31, D33): CPUREV at address 0x00 and CPNUM at 0x01 are read
zero-extended at every permission level, and a stspr to them raises nothing, goes to the next instruction and changes nothing
else. -/
def Obligations.HardCodedRegistersAreReadOnly : Prop :=
  ∀ (s : State) (rd rsa : RegNum),
    RegAnswer (.ldspr rd 0x00) rd (BitVec.ofNat 32 s.cfg.cpurev.toNat) s ∧
    RegAnswer (.ldspr rd 0x01) rd (BitVec.ofNat 32 s.cfg.cpnum.toNat) s ∧
    exec (.stspr rsa 0x00) s = .next { s with pc := s.pc + 4 } ∧
    exec (.stspr rsa 0x01) s = .next { s with pc := s.pc + 4 }

/-- 10_state R40, R45 to R47, 45_system R243, R244 (decisions D31, D32, D45): ldspr of STAT reads Z, OV, PEMA, PML, GINE, SPCP
from bit 7 down at every level; stspr to STAT at level 2 or above writes GINE and SPCP only, and is refused if one of the bits 7
to 2 of the value is set. -/
def Obligations.StatIsReadWholeAndWrittenInTwoBits : Prop :=
  ∀ (s : State) (rd rsa : RegNum),
    let v := s.readReg rsa
    RegAnswer (.ldspr rd 0x02) rd (BitVec.ofNat 32 (128 * s.stat.z.toNat + 64 * s.stat.ov.toNat + 32 * s.pema.toNat +
      4 * s.pml.toNat + 2 * s.stat.gine.toNat + s.stat.spcp.toNat)) s ∧
    (2 ≤ s.pml.toNat → v.toNat % 256 < 4 → exec (.stspr rsa 0x02) s =
      .next { s with pc := s.pc + 4, stat := { s.stat with gine := v.getLsbD 1, spcp := v.getLsbD 0 } }) ∧
    (2 ≤ s.pml.toNat → 4 ≤ v.toNat % 256 → exec (.stspr rsa 0x02) s = .refused (.statReadOnlyBits v))

/-- 10_state R48, R49, R51, R52: OPCARP is read and written from level 3, CPIDTP read at every level and written from level 4,
RPTINFO and RPID read at every level and written from level 3; a hard-coded pointer keeps its constant. -/
def Obligations.PointerAndProcessRegistersReadAndWrite : Prop :=
  ∀ (s : State) (rd rsa : RegNum),
    let v := s.readReg rsa
    (3 ≤ s.pml.toNat → RegAnswer (.ldspr rd 0x04) rd s.spr.opcarp s) ∧
    RegAnswer (.ldspr rd 0x08) rd s.spr.cpidtp s ∧ RegAnswer (.ldspr rd 0x10) rd s.spr.rptinfo s ∧
    RegAnswer (.ldspr rd 0x12) rd (BitVec.ofNat 32 s.spr.rpid.toNat) s ∧
    (3 ≤ s.pml.toNat → exec (.stspr rsa 0x04) s = .next { s with
      pc := s.pc + 4, spr := if s.cfg.opcarpHardcoded then s.spr else { s.spr with opcarp := v } }) ∧
    (4 ≤ s.pml.toNat → exec (.stspr rsa 0x08) s = .next { s with
      pc := s.pc + 4, spr := if s.cfg.cpidtpHardcoded then s.spr else { s.spr with cpidtp := v } }) ∧
    (3 ≤ s.pml.toNat → exec (.stspr rsa 0x10) s =
      .next { s with pc := s.pc + 4, spr := { s.spr with rptinfo := v } }) ∧
    (3 ≤ s.pml.toNat → exec (.stspr rsa 0x12) s =
      .next { s with pc := s.pc + 4, spr := { s.spr with rpid := BitVec.ofNat 16 v.toNat } })

/-- 45_system R243, R244 with the levels of 10_state R61 (decisions D24, D28, D45): an access to a System Register below its
level raises INSFPEM with the register's address, and changes nothing else. -/
def Obligations.AccessBelowTheLevelRaisesInsfpem : Prop :=
  ∀ (s : State) (rd rsa : RegNum) (a : BitVec 8) (level : Nat),
    ((a, level) ∈ [(0x02, 2), (0x04, 3), (0x08, 4), (0x0c, 2), (0x10, 3), (0x12, 3)] → s.pml.toNat < level →
      exec (.stspr rsa a) s = .next (Raised .insfpem (BitVec.ofNat 32 a.toNat) s)) ∧
    (s.pml.toNat < 3 → exec (.ldspr rd 0x04) s = .next (Raised .insfpem 0x04 s))

/-- 10_state R50, 45_system R243, R244 (decisions D27, D30, D45): UINTEN is read at every level and written from level 2; an
address that is no System Register is refused; both instructions ignore their unused fields. -/
def Obligations.UintenAndUnknownRegisters : Prop :=
  ∀ (s : State) (rd rsa : RegNum) (spr : BitVec 8),
    (∀ junk : RegNum, DecodesTo (0b001000#6 ++ junk ++ rsa ++ 0x02#8 ++ spr) (.stspr rsa spr) ∧
      DecodesTo (0b001000#6 ++ rd ++ junk ++ 0x03#8 ++ spr) (.ldspr rd spr)) ∧
    RegAnswer (.ldspr rd 0x0c) rd s.spr.uinten s ∧
    (2 ≤ s.pml.toNat → exec (.stspr rsa 0x0c) s =
      .next { s with pc := s.pc + 4, spr := { s.spr with uinten := s.readReg rsa } }) ∧
    (spr.toNat ∉ [0x00, 0x01, 0x02, 0x04, 0x08, 0x0c, 0x10, 0x12] →
      exec (.stspr rsa spr) s = .refused (.unknownSpr spr) ∧ exec (.ldspr rd spr) s = .refused (.unknownSpr spr))

/-- 45_system R245, 20_memory R84, R86 (decision D23): sync changes `pc` only, and in a unified memory empties the set of
unsynced addresses. -/
def Obligations.SyncOnlyAdvances : Prop :=
  ∀ s : State,
    (∀ (junk : BitVec 10) (low : BitVec 8), DecodesTo (0b001000#6 ++ junk ++ 0x04#8 ++ low) .sync) ∧
    (s.cfg.unifiedMemory = false → exec .sync s = .next { s with pc := s.pc + 4 }) ∧
    (s.cfg.unifiedMemory = true → exec .sync s = .next { s with pc := s.pc + 4, unsynced := [] })

/-- 45_system R246 (decision D37; the error code is the free value of log 14, of which only "non-zero" is stated): a lock of a
free address takes it and gives 0; a lock of a locked address gives a non-zero value and changes nothing. -/
def Obligations.LockTakesAFreeAddress : Prop :=
  ∀ (s : State) (rd rsa : RegNum),
    let a := (s.readReg rsa).toNat
    (∀ low : BitVec 8, DecodesTo (0b001000#6 ++ rd ++ rsa ++ 0x05#8 ++ low) (.lock rd rsa)) ∧
    (a ∉ s.locks → ∃ t, exec (.lock rd rsa) s = .next t ∧ WroteReg s.bank rd 0 s t ∧ t.stat = s.stat ∧
      t.pc = s.pc + 4 ∧ (∀ b, b ∈ t.locks ↔ b = a ∨ b ∈ s.locks) ∧ SameSpecial s t ∧ t.bank = s.bank ∧ SameMemory s t) ∧
    (a ∈ s.locks → ∃ code : Word, code ≠ 0 ∧ RegAnswer (.lock rd rsa) rd code s)

/-- 45_system R247 (decision D37): test writes what a lock of the address at that moment would write, and changes nothing
else. -/
def Obligations.TestReportsWhatLockWould : Prop :=
  ∀ (s t : State) (rd rsa : RegNum),
    (∀ low : BitVec 8, DecodesTo (0b001000#6 ++ rd ++ rsa ++ 0x06#8 ++ low) (.test rd rsa)) ∧
    (exec (.lock rd rsa) s = .next t → RegAnswer (.test rd rsa) rd (t.readReg rd) s) ∧
    ((s.readReg rsa).toNat ∉ s.locks → RegAnswer (.test rd rsa) rd 0 s) ∧
    ((s.readReg rsa).toNat ∈ s.locks → ∃ code : Word, code ≠ 0 ∧ RegAnswer (.test rd rsa) rd code s)

/-- 45_system R248 (decisions D28, D29, D43): pmir. -/
def Obligations.PmirRaisesOnlyToAGrantedLevel : Prop :=
  ∀ (s : State) (n : BitVec 8),
    (∀ junk : BitVec 10, DecodesTo (0b001000#6 ++ junk ++ 0x07#8 ++ n) (.pmir n)) ∧
    (s.cfg.hasPml = false → exec (.pmir n) s = .next { s with pc := s.pc + 4 }) ∧
    (s.cfg.hasPml = true →
      (7 < n.toNat ∨ n = 6 → exec (.pmir n) s = .next (Raised .invpr (n.setWidth 32) s)) ∧
      (n.toNat = s.pml.toNat → n ≠ 6 → exec (.pmir n) s = .next { s with pc := s.pc + 4 }) ∧
      (n.toNat < s.pml.toNat → n ≠ 6 → exec (.pmir n) s = .next (Raised .invpr (n.setWidth 32) s)) ∧
      (s.pml.toNat < n.toNat → n.toNat ≤ 7 → n ≠ 6 →
        ((s.pml, n.setWidth 3) ∈ s.cfg.pmirGrants →
          exec (.pmir n) s = .next { s with pc := s.pc + 4, stat := { s.stat with pml := n.setWidth 3 } }) ∧
        ((s.pml, n.setWidth 3) ∉ s.cfg.pmirGrants → exec (.pmir n) s = .next (Raised .invpr (n.setWidth 32) s))))

/-- 45_system R249 (decisions D28, D29, D43): pmd. -/
def Obligations.PmdLowersTheLevel : Prop :=
  ∀ (s : State) (n : BitVec 8),
    (∀ junk : BitVec 10, DecodesTo (0b001000#6 ++ junk ++ 0x08#8 ++ n) (.pmd n)) ∧
    (s.cfg.hasPml = false → exec (.pmd n) s = .next { s with pc := s.pc + 4 }) ∧
    (s.cfg.hasPml = true →
      (7 < n.toNat ∨ n = 6 → exec (.pmd n) s = .next (Raised .invpr (n.setWidth 32) s)) ∧
      (n.toNat ≤ s.pml.toNat → n ≠ 6 →
        exec (.pmd n) s = .next { s with pc := s.pc + 4, stat := { s.stat with pml := n.setWidth 3 } }) ∧
      (s.pml.toNat < n.toNat → exec (.pmd n) s = .next (Raised .invpr (n.setWidth 32) s)))

/-! ## The whole machine -/

/-- 10_state R60, 70_reset R350, R351 (decision D34; the register values are the model's choice, logs 19 to 21, and are not
stated): after reset the core is at the Reset vector, at the Top Hypervisor Level, in bank GP, not halted, with no lock and no
table. The model's DESIGN CHOICES: `State.reset` lists no byte of memory (logs 22, 23), and `applyReset`, which is no step, brings
every state there under its own parameters (log 37). -/
def Obligations.ResetStartsAtTheVectorAtTheTopLevel : Prop :=
  (∀ s : State, s = State.reset ∨ (∃ u, s = applyReset u) →
    s.pc = 0 ∧ s.stat.pml = 7 ∧ s.pml = 7 ∧ s.bank = .gp ∧ s.readReg 0 = 0 ∧ s.halted = false ∧ s.locks = [] ∧
      s.sysctpValid = false ∧ (s.cfg.hasPml = false → s.pema = true)) ∧
  State.reset.imem = [] ∧ State.reset.dmem = [] ∧ ∀ u : State, (applyReset u).cfg = u.cfg

/-- The invariant holds at reset (the parameters being the spec's defaults). -/
def Obligations.ResetMeetsTheInvariant : Prop := Inv State.reset

/-- The memories and address sets stay canonical, and the reserved level 6 is "never held" (10_state R43, decision D40), in
every state a step reaches from one where that holds. -/
def Obligations.EveryStepKeepsTheInvariant : Prop :=
  ∀ s t : State, Inv s → step s = .next t → Inv t

/-- 60_exceptions R310, R313 (decisions D24, D28): a step that halts the core raised INSFPEM, MISADDR, INVSYS or INVPR, left
`pc` at the raising instruction and changed nothing else but PEMA, and PEMA only if the instruction is a syscall. -/
def Obligations.ExceptionsArePrecise : Prop :=
  ∀ s t : State, step s = .next t → t.halted = true →
    ∃ e info, (e = .insfpem ∨ e = .misaddr ∨ e = .invsys ∨ e = .invpr) ∧
      (t = Raised e info s ∨
        ((∃ n, executes s (.syscall n)) ∧ s.cfg.hasPml = true ∧
          t = Raised e info { s with stat := { s.stat with pema := false } }))

/-- 10_state R43, 60_exceptions R332 (decisions D29, D38): only syscall, sysret, pmir and pmd change the permission level, and
with no grant only syscall and sysret raise it. -/
def Obligations.OnlyFourInstructionsChangeTheLevel : Prop :=
  ∀ s t : State, step s = .next t →
    (t.pml ≠ s.pml → ∃ i, executes s i ∧
      ((∃ n, i = .syscall n) ∨ i = .sysret ∨ (∃ n, i = .pmir n) ∨ (∃ n, i = .pmd n))) ∧
    (s.cfg.pmirGrants = [] → s.pml.toNat < t.pml.toNat → ∃ i, executes s i ∧ ((∃ n, i = .syscall n) ∨ i = .sysret))

/-- 10_state R61, 60_exceptions R330, R331 (decisions D40, D45): no step below level 2 changes GINE or SPCP of STAT, or UINTEN;
below level 3, OPCARP, RPTINFO or RPID; below level 4, CPIDTP; and only stspr changes one of these. Of STAT it speaks of these two
bits alone: Z, OV, PEMA and PML change at every level, by the instructions of FlagsChangeOnlyInTheAluFamilies and
OnlyFourInstructionsChangeTheLevel, and PEMA by syscall. -/
def Obligations.SystemRegistersChangeOnlyAtTheirLevel : Prop :=
  ∀ s t : State, step s = .next t →
    (t.stat.gine ≠ s.stat.gine ∨ t.stat.spcp ≠ s.stat.spcp ∨ t.spr.uinten ≠ s.spr.uinten → 2 ≤ s.pml.toNat) ∧
    (t.spr.opcarp ≠ s.spr.opcarp ∨ t.spr.rptinfo ≠ s.spr.rptinfo ∨ t.spr.rpid ≠ s.spr.rpid → 3 ≤ s.pml.toNat) ∧
    (t.spr.cpidtp ≠ s.spr.cpidtp → 4 ≤ s.pml.toNat) ∧
    (t.spr ≠ s.spr ∨ t.stat.gine ≠ s.stat.gine ∨ t.stat.spcp ≠ s.stat.spcp → ∃ rsa a, executes s (.stspr rsa a))

/-- 10_state R41, R42 (decisions D13, D14): only the Integer and Immediate families change Z, and with `OV_OTHER = unchanged`
only add, addi, sub and subi change OV. -/
def Obligations.FlagsChangeOnlyInTheAluFamilies : Prop :=
  ∀ s t : State, step s = .next t →
    (t.stat.z ≠ s.stat.z ∨ t.stat.ov ≠ s.stat.ov →
      ∃ i, executes s i ∧ (i.format = .integer ∨ i.format = .immediate)) ∧
    (s.cfg.ovOther = .unchanged → t.stat.ov ≠ s.stat.ov → ∃ i, executes s i ∧
      ((∃ d a b, i = .add d a b) ∨ (∃ d a m, i = .addi d a m) ∨ (∃ d a b, i = .sub d a b) ∨ (∃ d a m, i = .subi d a m)))

/-- 10_state R35, 60_exceptions R320 to R323 (decisions D26, D36): a step that neither halts the core nor goes to `pc + 4`
executed a branch, a jump, a syscall or a sysret, or executed an add, addi, sub or subi and entered the ROI slot with OV at 1 and
ROI enabled, or entered the CPMI slot with SPCP at 1 and CPMI enabled, changing `pc` only. -/
def Obligations.ControlLeavesTheSequenceOnlyAsListed : Prop :=
  ∀ s t : State, step s = .next t → t.halted = false → t.pc ≠ s.pc + 4 →
    (∃ i, executes s i ∧ (i.format = .branch ∨ i.format = .jump ∨ i.format = .jumpLink ∨ (∃ n, i = .syscall n) ∨ i = .sysret)) ∨
    ((∃ i, executes s i ∧
        ((∃ d a b, i = .add d a b) ∨ (∃ d a m, i = .addi d a m) ∨ (∃ d a b, i = .sub d a b) ∨ (∃ d a m, i = .subi d a m))) ∧
      t.pc = 0x00000010 ∧ t.stat.ov = true ∧ RoiEnabled s) ∨
    (t = { s with pc := 0x00000008 } ∧ s.stat.spcp = true ∧ CpmiEnabled s)

/-- 10_state R57, 20_memory R85, 45_system R250 (decision D37): no step releases a lock, and only lock takes one. -/
def Obligations.LocksAreNeverReleased : Prop :=
  ∀ s t : State, step s = .next t →
    (∀ a ∈ s.locks, a ∈ t.locks) ∧ (t.locks ≠ s.locks → ∃ rd rsa, executes s (.lock rd rsa))

/-- 20_memory R71, R77 (decision D21), and the model's own field `cfg` (log 18): no step changes the parameters, the table's
presence or instruction memory, so with separate memories the program never changes; and only the four stores change data
memory. -/
def Obligations.ProgramAndParametersNeverChange : Prop :=
  ∀ s t : State, step s = .next t →
    t.cfg = s.cfg ∧ t.sysctpValid = s.sysctpValid ∧ t.imem = s.imem ∧
    (s.cfg.unifiedMemory = false → ∀ a, fetchByte t a = fetchByte s a) ∧
    (t.dmem ≠ s.dmem → ∃ i, executes s i ∧ i.format = .store)

/-- 60_exceptions R330 (decisions D28, D40): every instruction but stspr, ldspr, syscall, pmir and pmd executes identically at
every permission level. -/
def Obligations.UnprivilegedInstructionsIgnoreTheLevel : Prop :=
  ∀ (i : Instr) (s : State) (level : BitVec 3),
    (∀ rsa a, i ≠ .stspr rsa a) → (∀ rd a, i ≠ .ldspr rd a) → (∀ n, i ≠ .syscall n) → (∀ n, i ≠ .pmir n) →
    (∀ n, i ≠ .pmd n) →
    AnswersAgree (fun t u => u = { t with stat := { t.stat with pml := u.stat.pml } }) (exec i s)
      (exec i { s with stat := { s.stat with pml := level } })

/-- 10_state R30, R32 (decision D18): with `LI_UPPER_LOW = zero` no instruction reads GLBREGF, and only lgi, lugi, lngi and
lungi write it. -/
def Obligations.NoInstructionReadsGlbregf : Prop :=
  ∀ (i : Instr) (s : State) (g : Vector Word 32),
    (s.cfg.liUpperLow = .zero →
      AnswersAgree (fun t u => u = { t with regs := { t.regs with glb := u.regs.glb } }) (exec i s)
        (exec i { s with regs := { s.regs with glb := g } })) ∧
    (∀ t, exec i s = .next t → t.regs.glb ≠ s.regs.glb →
      ∃ rd imm, i = .lgi rd imm ∨ i = .lugi rd imm ∨ i = .lngi rd imm ∨ i = .lungi rd imm)
end

