-- ==== Sys2Proof/Laws/Decode.lean ====
section
/-!
SUPPORT. The fields of a word written out by its format, and the opcodes: what decoding an assembled word needs.
-/

namespace Sys2Proof

/-! ## Pieces of a concatenation -/

/-- The two pieces of a split immediate, put together again. -/
theorem extractLsb'_join {m n : Nat} (x : BitVec (m + n)) : x.extractLsb' n m ++ x.extractLsb' 0 n = x := by
  apply BitVec.eq_of_getLsbD_eq
  intro i hi
  rw [BitVec.getLsbD_append]
  split
  · simp [*]
  · have h1 : i - n < m := by omega
    have h2 : n + (i - n) = i := by omega
    simp [h1, h2]

/-! ## The fields of each format (30_encoding R104 to R111) -/

theorem opcodeField_integer (op : BitVec 6) (rd : BitVec 5) (rsa : BitVec 5) (rsb : BitVec 5) (shft : BitVec 7) (aluop : BitVec 4) :
    opcodeField (op ++ rd ++ rsa ++ rsb ++ shft ++ aluop) = op := by
  apply BitVec.eq_of_getLsbD_eq
  intro i hi
  simp only [opcodeField, BitVec.getLsbD_extractLsb', BitVec.getLsbD_append]
  interval_cases i <;> simp

theorem rdField_integer (op : BitVec 6) (rd : BitVec 5) (rsa : BitVec 5) (rsb : BitVec 5) (shft : BitVec 7) (aluop : BitVec 4) :
    rdField (op ++ rd ++ rsa ++ rsb ++ shft ++ aluop) = rd := by
  apply BitVec.eq_of_getLsbD_eq
  intro i hi
  simp only [rdField, BitVec.getLsbD_extractLsb', BitVec.getLsbD_append]
  interval_cases i <;> simp

theorem rsaField_integer (op : BitVec 6) (rd : BitVec 5) (rsa : BitVec 5) (rsb : BitVec 5) (shft : BitVec 7) (aluop : BitVec 4) :
    rsaField (op ++ rd ++ rsa ++ rsb ++ shft ++ aluop) = rsa := by
  apply BitVec.eq_of_getLsbD_eq
  intro i hi
  simp only [rsaField, BitVec.getLsbD_extractLsb', BitVec.getLsbD_append]
  interval_cases i <;> simp

theorem rsbField_integer (op : BitVec 6) (rd : BitVec 5) (rsa : BitVec 5) (rsb : BitVec 5) (shft : BitVec 7) (aluop : BitVec 4) :
    rsbField (op ++ rd ++ rsa ++ rsb ++ shft ++ aluop) = rsb := by
  apply BitVec.eq_of_getLsbD_eq
  intro i hi
  simp only [rsbField, BitVec.getLsbD_extractLsb', BitVec.getLsbD_append]
  interval_cases i <;> simp

theorem shftField_integer (op : BitVec 6) (rd : BitVec 5) (rsa : BitVec 5) (rsb : BitVec 5) (shft : BitVec 7) (aluop : BitVec 4) :
    shftField (op ++ rd ++ rsa ++ rsb ++ shft ++ aluop) = shft := by
  apply BitVec.eq_of_getLsbD_eq
  intro i hi
  simp only [shftField, BitVec.getLsbD_extractLsb', BitVec.getLsbD_append]
  interval_cases i <;> simp

theorem aluopField_integer (op : BitVec 6) (rd : BitVec 5) (rsa : BitVec 5) (rsb : BitVec 5) (shft : BitVec 7) (aluop : BitVec 4) :
    aluopField (op ++ rd ++ rsa ++ rsb ++ shft ++ aluop) = aluop := by
  apply BitVec.eq_of_getLsbD_eq
  intro i hi
  simp only [aluopField, BitVec.getLsbD_extractLsb', BitVec.getLsbD_append]
  interval_cases i <;> simp

theorem opcodeField_immediate (op : BitVec 6) (rd : BitVec 5) (rsa : BitVec 5) (imm : BitVec 12) (aluop : BitVec 4) :
    opcodeField (op ++ rd ++ rsa ++ imm ++ aluop) = op := by
  apply BitVec.eq_of_getLsbD_eq
  intro i hi
  simp only [opcodeField, BitVec.getLsbD_extractLsb', BitVec.getLsbD_append]
  interval_cases i <;> simp

theorem rdField_immediate (op : BitVec 6) (rd : BitVec 5) (rsa : BitVec 5) (imm : BitVec 12) (aluop : BitVec 4) :
    rdField (op ++ rd ++ rsa ++ imm ++ aluop) = rd := by
  apply BitVec.eq_of_getLsbD_eq
  intro i hi
  simp only [rdField, BitVec.getLsbD_extractLsb', BitVec.getLsbD_append]
  interval_cases i <;> simp

theorem rsaField_immediate (op : BitVec 6) (rd : BitVec 5) (rsa : BitVec 5) (imm : BitVec 12) (aluop : BitVec 4) :
    rsaField (op ++ rd ++ rsa ++ imm ++ aluop) = rsa := by
  apply BitVec.eq_of_getLsbD_eq
  intro i hi
  simp only [rsaField, BitVec.getLsbD_extractLsb', BitVec.getLsbD_append]
  interval_cases i <;> simp

theorem imm12Field_immediate (op : BitVec 6) (rd : BitVec 5) (rsa : BitVec 5) (imm : BitVec 12) (aluop : BitVec 4) :
    imm12Field (op ++ rd ++ rsa ++ imm ++ aluop) = imm := by
  apply BitVec.eq_of_getLsbD_eq
  intro i hi
  simp only [imm12Field, BitVec.getLsbD_extractLsb', BitVec.getLsbD_append]
  interval_cases i <;> simp

theorem aluopField_immediate (op : BitVec 6) (rd : BitVec 5) (rsa : BitVec 5) (imm : BitVec 12) (aluop : BitVec 4) :
    aluopField (op ++ rd ++ rsa ++ imm ++ aluop) = aluop := by
  apply BitVec.eq_of_getLsbD_eq
  intro i hi
  simp only [aluopField, BitVec.getLsbD_extractLsb', BitVec.getLsbD_append]
  interval_cases i <;> simp

theorem opcodeField_load (op : BitVec 6) (rd : BitVec 5) (rsa : BitVec 5) (funct : BitVec 2) (imm : BitVec 14) :
    opcodeField (op ++ rd ++ rsa ++ funct ++ imm) = op := by
  apply BitVec.eq_of_getLsbD_eq
  intro i hi
  simp only [opcodeField, BitVec.getLsbD_extractLsb', BitVec.getLsbD_append]
  interval_cases i <;> simp

theorem rdField_load (op : BitVec 6) (rd : BitVec 5) (rsa : BitVec 5) (funct : BitVec 2) (imm : BitVec 14) :
    rdField (op ++ rd ++ rsa ++ funct ++ imm) = rd := by
  apply BitVec.eq_of_getLsbD_eq
  intro i hi
  simp only [rdField, BitVec.getLsbD_extractLsb', BitVec.getLsbD_append]
  interval_cases i <;> simp

theorem rsaField_load (op : BitVec 6) (rd : BitVec 5) (rsa : BitVec 5) (funct : BitVec 2) (imm : BitVec 14) :
    rsaField (op ++ rd ++ rsa ++ funct ++ imm) = rsa := by
  apply BitVec.eq_of_getLsbD_eq
  intro i hi
  simp only [rsaField, BitVec.getLsbD_extractLsb', BitVec.getLsbD_append]
  interval_cases i <;> simp

theorem loadFunct_load (op : BitVec 6) (rd : BitVec 5) (rsa : BitVec 5) (funct : BitVec 2) (imm : BitVec 14) :
    loadFunct (op ++ rd ++ rsa ++ funct ++ imm) = funct := by
  apply BitVec.eq_of_getLsbD_eq
  intro i hi
  simp only [loadFunct, BitVec.getLsbD_extractLsb', BitVec.getLsbD_append]
  interval_cases i <;> simp

theorem loadImm_load (op : BitVec 6) (rd : BitVec 5) (rsa : BitVec 5) (funct : BitVec 2) (imm : BitVec 14) :
    loadImm (op ++ rd ++ rsa ++ funct ++ imm) = imm := by
  apply BitVec.eq_of_getLsbD_eq
  intro i hi
  simp only [loadImm, BitVec.getLsbD_extractLsb', BitVec.getLsbD_append]
  interval_cases i <;> simp

theorem opcodeField_loadImmediate (op : BitVec 6) (rd : BitVec 5) (dsel : BitVec 5) (imm : BitVec 16) :
    opcodeField (op ++ rd ++ dsel ++ imm) = op := by
  apply BitVec.eq_of_getLsbD_eq
  intro i hi
  simp only [opcodeField, BitVec.getLsbD_extractLsb', BitVec.getLsbD_append]
  interval_cases i <;> simp

theorem rdField_loadImmediate (op : BitVec 6) (rd : BitVec 5) (dsel : BitVec 5) (imm : BitVec 16) :
    rdField (op ++ rd ++ dsel ++ imm) = rd := by
  apply BitVec.eq_of_getLsbD_eq
  intro i hi
  simp only [rdField, BitVec.getLsbD_extractLsb', BitVec.getLsbD_append]
  interval_cases i <;> simp

theorem rsaField_loadImmediate (op : BitVec 6) (rd : BitVec 5) (dsel : BitVec 5) (imm : BitVec 16) :
    rsaField (op ++ rd ++ dsel ++ imm) = dsel := by
  apply BitVec.eq_of_getLsbD_eq
  intro i hi
  simp only [rsaField, BitVec.getLsbD_extractLsb', BitVec.getLsbD_append]
  interval_cases i <;> simp

theorem imm16Field_loadImmediate (op : BitVec 6) (rd : BitVec 5) (dsel : BitVec 5) (imm : BitVec 16) :
    imm16Field (op ++ rd ++ dsel ++ imm) = imm := by
  apply BitVec.eq_of_getLsbD_eq
  intro i hi
  simp only [imm16Field, BitVec.getLsbD_extractLsb', BitVec.getLsbD_append]
  interval_cases i <;> simp

theorem opcodeField_store (op : BitVec 6) (funct : BitVec 2) (hi : BitVec 3) (rsa : BitVec 5) (rsb : BitVec 5) (lo : BitVec 11) :
    opcodeField (op ++ funct ++ hi ++ rsa ++ rsb ++ lo) = op := by
  apply BitVec.eq_of_getLsbD_eq
  intro i hi
  simp only [opcodeField, BitVec.getLsbD_extractLsb', BitVec.getLsbD_append]
  interval_cases i <;> simp

theorem storeFunct_store (op : BitVec 6) (funct : BitVec 2) (hi : BitVec 3) (rsa : BitVec 5) (rsb : BitVec 5) (lo : BitVec 11) :
    storeFunct (op ++ funct ++ hi ++ rsa ++ rsb ++ lo) = funct := by
  apply BitVec.eq_of_getLsbD_eq
  intro i hi
  simp only [storeFunct, BitVec.getLsbD_extractLsb', BitVec.getLsbD_append]
  interval_cases i <;> simp

theorem rsaField_store (op : BitVec 6) (funct : BitVec 2) (hi : BitVec 3) (rsa : BitVec 5) (rsb : BitVec 5) (lo : BitVec 11) :
    rsaField (op ++ funct ++ hi ++ rsa ++ rsb ++ lo) = rsa := by
  apply BitVec.eq_of_getLsbD_eq
  intro i hi
  simp only [rsaField, BitVec.getLsbD_extractLsb', BitVec.getLsbD_append]
  interval_cases i <;> simp

theorem rsbField_store (op : BitVec 6) (funct : BitVec 2) (hi : BitVec 3) (rsa : BitVec 5) (rsb : BitVec 5) (lo : BitVec 11) :
    rsbField (op ++ funct ++ hi ++ rsa ++ rsb ++ lo) = rsb := by
  apply BitVec.eq_of_getLsbD_eq
  intro i hi
  simp only [rsbField, BitVec.getLsbD_extractLsb', BitVec.getLsbD_append]
  interval_cases i <;> simp

theorem storeImm_store (op : BitVec 6) (funct : BitVec 2) (hi : BitVec 3) (rsa : BitVec 5) (rsb : BitVec 5) (lo : BitVec 11) :
    storeImm (op ++ funct ++ hi ++ rsa ++ rsb ++ lo) = hi ++ lo := by
  apply BitVec.eq_of_getLsbD_eq
  intro i hi
  simp only [storeImm, BitVec.getLsbD_extractLsb', BitVec.getLsbD_append]
  interval_cases i <;> simp

theorem opcodeField_jump (op : BitVec 6) (hi : BitVec 5) (rsa : BitVec 5) (lo : BitVec 16) :
    opcodeField (op ++ hi ++ rsa ++ lo) = op := by
  apply BitVec.eq_of_getLsbD_eq
  intro i hi
  simp only [opcodeField, BitVec.getLsbD_extractLsb', BitVec.getLsbD_append]
  interval_cases i <;> simp

theorem rsaField_jump (op : BitVec 6) (hi : BitVec 5) (rsa : BitVec 5) (lo : BitVec 16) :
    rsaField (op ++ hi ++ rsa ++ lo) = rsa := by
  apply BitVec.eq_of_getLsbD_eq
  intro i hi
  simp only [rsaField, BitVec.getLsbD_extractLsb', BitVec.getLsbD_append]
  interval_cases i <;> simp

theorem jumpImm_jump (op : BitVec 6) (hi : BitVec 5) (rsa : BitVec 5) (lo : BitVec 16) :
    jumpImm (op ++ hi ++ rsa ++ lo) = hi ++ lo := by
  apply BitVec.eq_of_getLsbD_eq
  intro i hi
  simp only [jumpImm, BitVec.getLsbD_extractLsb', BitVec.getLsbD_append]
  interval_cases i <;> simp

theorem opcodeField_branch (op : BitVec 6) (hi : BitVec 5) (rsa : BitVec 5) (rsb : BitVec 5) (lo : BitVec 9) (funct : BitVec 2) :
    opcodeField (op ++ hi ++ rsa ++ rsb ++ lo ++ funct) = op := by
  apply BitVec.eq_of_getLsbD_eq
  intro i hi
  simp only [opcodeField, BitVec.getLsbD_extractLsb', BitVec.getLsbD_append]
  interval_cases i <;> simp

theorem rsaField_branch (op : BitVec 6) (hi : BitVec 5) (rsa : BitVec 5) (rsb : BitVec 5) (lo : BitVec 9) (funct : BitVec 2) :
    rsaField (op ++ hi ++ rsa ++ rsb ++ lo ++ funct) = rsa := by
  apply BitVec.eq_of_getLsbD_eq
  intro i hi
  simp only [rsaField, BitVec.getLsbD_extractLsb', BitVec.getLsbD_append]
  interval_cases i <;> simp

theorem rsbField_branch (op : BitVec 6) (hi : BitVec 5) (rsa : BitVec 5) (rsb : BitVec 5) (lo : BitVec 9) (funct : BitVec 2) :
    rsbField (op ++ hi ++ rsa ++ rsb ++ lo ++ funct) = rsb := by
  apply BitVec.eq_of_getLsbD_eq
  intro i hi
  simp only [rsbField, BitVec.getLsbD_extractLsb', BitVec.getLsbD_append]
  interval_cases i <;> simp

theorem branchImm_branch (op : BitVec 6) (hi : BitVec 5) (rsa : BitVec 5) (rsb : BitVec 5) (lo : BitVec 9) (funct : BitVec 2) :
    branchImm (op ++ hi ++ rsa ++ rsb ++ lo ++ funct) = hi ++ lo := by
  apply BitVec.eq_of_getLsbD_eq
  intro i hi
  simp only [branchImm, BitVec.getLsbD_extractLsb', BitVec.getLsbD_append]
  interval_cases i <;> simp

theorem branchFunct_branch (op : BitVec 6) (hi : BitVec 5) (rsa : BitVec 5) (rsb : BitVec 5) (lo : BitVec 9) (funct : BitVec 2) :
    branchFunct (op ++ hi ++ rsa ++ rsb ++ lo ++ funct) = funct := by
  apply BitVec.eq_of_getLsbD_eq
  intro i hi
  simp only [branchFunct, BitVec.getLsbD_extractLsb', BitVec.getLsbD_append]
  interval_cases i <;> simp

theorem opcodeField_system (op : BitVec 6) (rd : BitVec 5) (rsa : BitVec 5) (funct : BitVec 8) (imm : BitVec 8) :
    opcodeField (op ++ rd ++ rsa ++ funct ++ imm) = op := by
  apply BitVec.eq_of_getLsbD_eq
  intro i hi
  simp only [opcodeField, BitVec.getLsbD_extractLsb', BitVec.getLsbD_append]
  interval_cases i <;> simp

theorem rdField_system (op : BitVec 6) (rd : BitVec 5) (rsa : BitVec 5) (funct : BitVec 8) (imm : BitVec 8) :
    rdField (op ++ rd ++ rsa ++ funct ++ imm) = rd := by
  apply BitVec.eq_of_getLsbD_eq
  intro i hi
  simp only [rdField, BitVec.getLsbD_extractLsb', BitVec.getLsbD_append]
  interval_cases i <;> simp

theorem rsaField_system (op : BitVec 6) (rd : BitVec 5) (rsa : BitVec 5) (funct : BitVec 8) (imm : BitVec 8) :
    rsaField (op ++ rd ++ rsa ++ funct ++ imm) = rsa := by
  apply BitVec.eq_of_getLsbD_eq
  intro i hi
  simp only [rsaField, BitVec.getLsbD_extractLsb', BitVec.getLsbD_append]
  interval_cases i <;> simp

theorem functField_system (op : BitVec 6) (rd : BitVec 5) (rsa : BitVec 5) (funct : BitVec 8) (imm : BitVec 8) :
    functField (op ++ rd ++ rsa ++ funct ++ imm) = funct := by
  apply BitVec.eq_of_getLsbD_eq
  intro i hi
  simp only [functField, BitVec.getLsbD_extractLsb', BitVec.getLsbD_append]
  interval_cases i <;> simp

theorem imm8Field_system (op : BitVec 6) (rd : BitVec 5) (rsa : BitVec 5) (funct : BitVec 8) (imm : BitVec 8) :
    imm8Field (op ++ rd ++ rsa ++ funct ++ imm) = imm := by
  apply BitVec.eq_of_getLsbD_eq
  intro i hi
  simp only [imm8Field, BitVec.getLsbD_extractLsb', BitVec.getLsbD_append]
  interval_cases i <;> simp

/-! ## Opcodes -/

/-- No core opcode is a co-processor's (30_encoding R102, R103). -/
theorem isCoprocessorOpcode_opcode (c : Config) (f : Format) : isCoprocessorOpcode c (opcode c f) = false := by
  cases f <;> cases ho : c.opmap <;> cases hs : c.opcSys <;> simp [isCoprocessorOpcode, opcode, ho, hs]

/-- An opcode selects its format, and no other (30_encoding R119). -/
theorem formatOf_opcode (c : Config) (f : Format) : formatOf c (opcode c f) = some f := by
  cases f <;> cases ho : c.opmap <;> cases hs : c.opcSys <;> simp [formatOf, opcode, ho, hs]

/-- Decoding a word whose opcode is a format's is decoding in that format. -/
theorem decode_of_opcodeField (c : Config) (f : Format) (w : Word) (h : opcodeField w = opcode c f) :
    decode c w = decodeFormat w f := by
  simp [decode, h, isCoprocessorOpcode_opcode, formatOf_opcode]

/-! ## Bytes -/

/-- The four bytes of a word give the word back (20_memory R73). -/
theorem wordOfBytes_byteOfWord (w : Word) :
    wordOfBytes (byteOfWord w 0) (byteOfWord w 1) (byteOfWord w 2) (byteOfWord w 3) = w := by
  apply BitVec.eq_of_getLsbD_eq
  intro i hi
  simp only [wordOfBytes, byteOfWord, BitVec.getLsbD_append, BitVec.getLsbD_extractLsb']
  interval_cases i <;> simp

end Sys2Proof
end

