-- ==== Sys2Proof/Laws/State.lean ====
section
/-!
SUPPORT. One lemma per field per update of the state: no later proof unfolds a record update.
-/

namespace Sys2Proof.Machine

@[simp] theorem State.setPc_cfg (s : State) (v : Word) : (s.setPc v).cfg = s.cfg := rfl
@[simp] theorem State.setPc_pc (s : State) (v : Word) : (s.setPc v).pc = v := rfl
@[simp] theorem State.setPc_bank (s : State) (v : Word) : (s.setPc v).bank = s.bank := rfl
@[simp] theorem State.setPc_regs (s : State) (v : Word) : (s.setPc v).regs = s.regs := rfl
@[simp] theorem State.setPc_stat (s : State) (v : Word) : (s.setPc v).stat = s.stat := rfl
@[simp] theorem State.setPc_spr (s : State) (v : Word) : (s.setPc v).spr = s.spr := rfl
@[simp] theorem State.setPc_ecode (s : State) (v : Word) : (s.setPc v).ecode = s.ecode := rfl
@[simp] theorem State.setPc_halted (s : State) (v : Word) : (s.setPc v).halted = s.halted := rfl
@[simp] theorem State.setPc_haltInfo (s : State) (v : Word) : (s.setPc v).haltInfo = s.haltInfo := rfl
@[simp] theorem State.setPc_sysctpValid (s : State) (v : Word) : (s.setPc v).sysctpValid = s.sysctpValid := rfl
@[simp] theorem State.setPc_sysretPc (s : State) (v : Word) : (s.setPc v).sysretPc = s.sysretPc := rfl
@[simp] theorem State.setPc_sysretPml (s : State) (v : Word) : (s.setPc v).sysretPml = s.sysretPml := rfl
@[simp] theorem State.setPc_locks (s : State) (v : Word) : (s.setPc v).locks = s.locks := rfl
@[simp] theorem State.setPc_imem (s : State) (v : Word) : (s.setPc v).imem = s.imem := rfl
@[simp] theorem State.setPc_dmem (s : State) (v : Word) : (s.setPc v).dmem = s.dmem := rfl
@[simp] theorem State.setPc_unsynced (s : State) (v : Word) : (s.setPc v).unsynced = s.unsynced := rfl

@[simp] theorem State.setBank_cfg (s : State) (v : Bank) : (s.setBank v).cfg = s.cfg := rfl
@[simp] theorem State.setBank_pc (s : State) (v : Bank) : (s.setBank v).pc = s.pc := rfl
@[simp] theorem State.setBank_bank (s : State) (v : Bank) : (s.setBank v).bank = v := rfl
@[simp] theorem State.setBank_regs (s : State) (v : Bank) : (s.setBank v).regs = s.regs := rfl
@[simp] theorem State.setBank_stat (s : State) (v : Bank) : (s.setBank v).stat = s.stat := rfl
@[simp] theorem State.setBank_spr (s : State) (v : Bank) : (s.setBank v).spr = s.spr := rfl
@[simp] theorem State.setBank_ecode (s : State) (v : Bank) : (s.setBank v).ecode = s.ecode := rfl
@[simp] theorem State.setBank_halted (s : State) (v : Bank) : (s.setBank v).halted = s.halted := rfl
@[simp] theorem State.setBank_haltInfo (s : State) (v : Bank) : (s.setBank v).haltInfo = s.haltInfo := rfl
@[simp] theorem State.setBank_sysctpValid (s : State) (v : Bank) : (s.setBank v).sysctpValid = s.sysctpValid := rfl
@[simp] theorem State.setBank_sysretPc (s : State) (v : Bank) : (s.setBank v).sysretPc = s.sysretPc := rfl
@[simp] theorem State.setBank_sysretPml (s : State) (v : Bank) : (s.setBank v).sysretPml = s.sysretPml := rfl
@[simp] theorem State.setBank_locks (s : State) (v : Bank) : (s.setBank v).locks = s.locks := rfl
@[simp] theorem State.setBank_imem (s : State) (v : Bank) : (s.setBank v).imem = s.imem := rfl
@[simp] theorem State.setBank_dmem (s : State) (v : Bank) : (s.setBank v).dmem = s.dmem := rfl
@[simp] theorem State.setBank_unsynced (s : State) (v : Bank) : (s.setBank v).unsynced = s.unsynced := rfl

@[simp] theorem State.setRegs_cfg (s : State) (v : RegFiles) : (s.setRegs v).cfg = s.cfg := rfl
@[simp] theorem State.setRegs_pc (s : State) (v : RegFiles) : (s.setRegs v).pc = s.pc := rfl
@[simp] theorem State.setRegs_bank (s : State) (v : RegFiles) : (s.setRegs v).bank = s.bank := rfl
@[simp] theorem State.setRegs_regs (s : State) (v : RegFiles) : (s.setRegs v).regs = v := rfl
@[simp] theorem State.setRegs_stat (s : State) (v : RegFiles) : (s.setRegs v).stat = s.stat := rfl
@[simp] theorem State.setRegs_spr (s : State) (v : RegFiles) : (s.setRegs v).spr = s.spr := rfl
@[simp] theorem State.setRegs_ecode (s : State) (v : RegFiles) : (s.setRegs v).ecode = s.ecode := rfl
@[simp] theorem State.setRegs_halted (s : State) (v : RegFiles) : (s.setRegs v).halted = s.halted := rfl
@[simp] theorem State.setRegs_haltInfo (s : State) (v : RegFiles) : (s.setRegs v).haltInfo = s.haltInfo := rfl
@[simp] theorem State.setRegs_sysctpValid (s : State) (v : RegFiles) : (s.setRegs v).sysctpValid = s.sysctpValid := rfl
@[simp] theorem State.setRegs_sysretPc (s : State) (v : RegFiles) : (s.setRegs v).sysretPc = s.sysretPc := rfl
@[simp] theorem State.setRegs_sysretPml (s : State) (v : RegFiles) : (s.setRegs v).sysretPml = s.sysretPml := rfl
@[simp] theorem State.setRegs_locks (s : State) (v : RegFiles) : (s.setRegs v).locks = s.locks := rfl
@[simp] theorem State.setRegs_imem (s : State) (v : RegFiles) : (s.setRegs v).imem = s.imem := rfl
@[simp] theorem State.setRegs_dmem (s : State) (v : RegFiles) : (s.setRegs v).dmem = s.dmem := rfl
@[simp] theorem State.setRegs_unsynced (s : State) (v : RegFiles) : (s.setRegs v).unsynced = s.unsynced := rfl

@[simp] theorem State.setStat_cfg (s : State) (v : Stat) : (s.setStat v).cfg = s.cfg := rfl
@[simp] theorem State.setStat_pc (s : State) (v : Stat) : (s.setStat v).pc = s.pc := rfl
@[simp] theorem State.setStat_bank (s : State) (v : Stat) : (s.setStat v).bank = s.bank := rfl
@[simp] theorem State.setStat_regs (s : State) (v : Stat) : (s.setStat v).regs = s.regs := rfl
@[simp] theorem State.setStat_stat (s : State) (v : Stat) : (s.setStat v).stat = v := rfl
@[simp] theorem State.setStat_spr (s : State) (v : Stat) : (s.setStat v).spr = s.spr := rfl
@[simp] theorem State.setStat_ecode (s : State) (v : Stat) : (s.setStat v).ecode = s.ecode := rfl
@[simp] theorem State.setStat_halted (s : State) (v : Stat) : (s.setStat v).halted = s.halted := rfl
@[simp] theorem State.setStat_haltInfo (s : State) (v : Stat) : (s.setStat v).haltInfo = s.haltInfo := rfl
@[simp] theorem State.setStat_sysctpValid (s : State) (v : Stat) : (s.setStat v).sysctpValid = s.sysctpValid := rfl
@[simp] theorem State.setStat_sysretPc (s : State) (v : Stat) : (s.setStat v).sysretPc = s.sysretPc := rfl
@[simp] theorem State.setStat_sysretPml (s : State) (v : Stat) : (s.setStat v).sysretPml = s.sysretPml := rfl
@[simp] theorem State.setStat_locks (s : State) (v : Stat) : (s.setStat v).locks = s.locks := rfl
@[simp] theorem State.setStat_imem (s : State) (v : Stat) : (s.setStat v).imem = s.imem := rfl
@[simp] theorem State.setStat_dmem (s : State) (v : Stat) : (s.setStat v).dmem = s.dmem := rfl
@[simp] theorem State.setStat_unsynced (s : State) (v : Stat) : (s.setStat v).unsynced = s.unsynced := rfl

@[simp] theorem State.setSpr_cfg (s : State) (v : SpecialRegs) : (s.setSpr v).cfg = s.cfg := rfl
@[simp] theorem State.setSpr_pc (s : State) (v : SpecialRegs) : (s.setSpr v).pc = s.pc := rfl
@[simp] theorem State.setSpr_bank (s : State) (v : SpecialRegs) : (s.setSpr v).bank = s.bank := rfl
@[simp] theorem State.setSpr_regs (s : State) (v : SpecialRegs) : (s.setSpr v).regs = s.regs := rfl
@[simp] theorem State.setSpr_stat (s : State) (v : SpecialRegs) : (s.setSpr v).stat = s.stat := rfl
@[simp] theorem State.setSpr_spr (s : State) (v : SpecialRegs) : (s.setSpr v).spr = v := rfl
@[simp] theorem State.setSpr_ecode (s : State) (v : SpecialRegs) : (s.setSpr v).ecode = s.ecode := rfl
@[simp] theorem State.setSpr_halted (s : State) (v : SpecialRegs) : (s.setSpr v).halted = s.halted := rfl
@[simp] theorem State.setSpr_haltInfo (s : State) (v : SpecialRegs) : (s.setSpr v).haltInfo = s.haltInfo := rfl
@[simp] theorem State.setSpr_sysctpValid (s : State) (v : SpecialRegs) : (s.setSpr v).sysctpValid = s.sysctpValid := rfl
@[simp] theorem State.setSpr_sysretPc (s : State) (v : SpecialRegs) : (s.setSpr v).sysretPc = s.sysretPc := rfl
@[simp] theorem State.setSpr_sysretPml (s : State) (v : SpecialRegs) : (s.setSpr v).sysretPml = s.sysretPml := rfl
@[simp] theorem State.setSpr_locks (s : State) (v : SpecialRegs) : (s.setSpr v).locks = s.locks := rfl
@[simp] theorem State.setSpr_imem (s : State) (v : SpecialRegs) : (s.setSpr v).imem = s.imem := rfl
@[simp] theorem State.setSpr_dmem (s : State) (v : SpecialRegs) : (s.setSpr v).dmem = s.dmem := rfl
@[simp] theorem State.setSpr_unsynced (s : State) (v : SpecialRegs) : (s.setSpr v).unsynced = s.unsynced := rfl

@[simp] theorem State.setLocks_cfg (s : State) (v : List Nat) : (s.setLocks v).cfg = s.cfg := rfl
@[simp] theorem State.setLocks_pc (s : State) (v : List Nat) : (s.setLocks v).pc = s.pc := rfl
@[simp] theorem State.setLocks_bank (s : State) (v : List Nat) : (s.setLocks v).bank = s.bank := rfl
@[simp] theorem State.setLocks_regs (s : State) (v : List Nat) : (s.setLocks v).regs = s.regs := rfl
@[simp] theorem State.setLocks_stat (s : State) (v : List Nat) : (s.setLocks v).stat = s.stat := rfl
@[simp] theorem State.setLocks_spr (s : State) (v : List Nat) : (s.setLocks v).spr = s.spr := rfl
@[simp] theorem State.setLocks_ecode (s : State) (v : List Nat) : (s.setLocks v).ecode = s.ecode := rfl
@[simp] theorem State.setLocks_halted (s : State) (v : List Nat) : (s.setLocks v).halted = s.halted := rfl
@[simp] theorem State.setLocks_haltInfo (s : State) (v : List Nat) : (s.setLocks v).haltInfo = s.haltInfo := rfl
@[simp] theorem State.setLocks_sysctpValid (s : State) (v : List Nat) : (s.setLocks v).sysctpValid = s.sysctpValid := rfl
@[simp] theorem State.setLocks_sysretPc (s : State) (v : List Nat) : (s.setLocks v).sysretPc = s.sysretPc := rfl
@[simp] theorem State.setLocks_sysretPml (s : State) (v : List Nat) : (s.setLocks v).sysretPml = s.sysretPml := rfl
@[simp] theorem State.setLocks_locks (s : State) (v : List Nat) : (s.setLocks v).locks = v := rfl
@[simp] theorem State.setLocks_imem (s : State) (v : List Nat) : (s.setLocks v).imem = s.imem := rfl
@[simp] theorem State.setLocks_dmem (s : State) (v : List Nat) : (s.setLocks v).dmem = s.dmem := rfl
@[simp] theorem State.setLocks_unsynced (s : State) (v : List Nat) : (s.setLocks v).unsynced = s.unsynced := rfl

@[simp] theorem State.setImem_cfg (s : State) (v : Memory) : (s.setImem v).cfg = s.cfg := rfl
@[simp] theorem State.setImem_pc (s : State) (v : Memory) : (s.setImem v).pc = s.pc := rfl
@[simp] theorem State.setImem_bank (s : State) (v : Memory) : (s.setImem v).bank = s.bank := rfl
@[simp] theorem State.setImem_regs (s : State) (v : Memory) : (s.setImem v).regs = s.regs := rfl
@[simp] theorem State.setImem_stat (s : State) (v : Memory) : (s.setImem v).stat = s.stat := rfl
@[simp] theorem State.setImem_spr (s : State) (v : Memory) : (s.setImem v).spr = s.spr := rfl
@[simp] theorem State.setImem_ecode (s : State) (v : Memory) : (s.setImem v).ecode = s.ecode := rfl
@[simp] theorem State.setImem_halted (s : State) (v : Memory) : (s.setImem v).halted = s.halted := rfl
@[simp] theorem State.setImem_haltInfo (s : State) (v : Memory) : (s.setImem v).haltInfo = s.haltInfo := rfl
@[simp] theorem State.setImem_sysctpValid (s : State) (v : Memory) : (s.setImem v).sysctpValid = s.sysctpValid := rfl
@[simp] theorem State.setImem_sysretPc (s : State) (v : Memory) : (s.setImem v).sysretPc = s.sysretPc := rfl
@[simp] theorem State.setImem_sysretPml (s : State) (v : Memory) : (s.setImem v).sysretPml = s.sysretPml := rfl
@[simp] theorem State.setImem_locks (s : State) (v : Memory) : (s.setImem v).locks = s.locks := rfl
@[simp] theorem State.setImem_imem (s : State) (v : Memory) : (s.setImem v).imem = v := rfl
@[simp] theorem State.setImem_dmem (s : State) (v : Memory) : (s.setImem v).dmem = s.dmem := rfl
@[simp] theorem State.setImem_unsynced (s : State) (v : Memory) : (s.setImem v).unsynced = s.unsynced := rfl

@[simp] theorem State.setDmem_cfg (s : State) (v : Memory) : (s.setDmem v).cfg = s.cfg := rfl
@[simp] theorem State.setDmem_pc (s : State) (v : Memory) : (s.setDmem v).pc = s.pc := rfl
@[simp] theorem State.setDmem_bank (s : State) (v : Memory) : (s.setDmem v).bank = s.bank := rfl
@[simp] theorem State.setDmem_regs (s : State) (v : Memory) : (s.setDmem v).regs = s.regs := rfl
@[simp] theorem State.setDmem_stat (s : State) (v : Memory) : (s.setDmem v).stat = s.stat := rfl
@[simp] theorem State.setDmem_spr (s : State) (v : Memory) : (s.setDmem v).spr = s.spr := rfl
@[simp] theorem State.setDmem_ecode (s : State) (v : Memory) : (s.setDmem v).ecode = s.ecode := rfl
@[simp] theorem State.setDmem_halted (s : State) (v : Memory) : (s.setDmem v).halted = s.halted := rfl
@[simp] theorem State.setDmem_haltInfo (s : State) (v : Memory) : (s.setDmem v).haltInfo = s.haltInfo := rfl
@[simp] theorem State.setDmem_sysctpValid (s : State) (v : Memory) : (s.setDmem v).sysctpValid = s.sysctpValid := rfl
@[simp] theorem State.setDmem_sysretPc (s : State) (v : Memory) : (s.setDmem v).sysretPc = s.sysretPc := rfl
@[simp] theorem State.setDmem_sysretPml (s : State) (v : Memory) : (s.setDmem v).sysretPml = s.sysretPml := rfl
@[simp] theorem State.setDmem_locks (s : State) (v : Memory) : (s.setDmem v).locks = s.locks := rfl
@[simp] theorem State.setDmem_imem (s : State) (v : Memory) : (s.setDmem v).imem = s.imem := rfl
@[simp] theorem State.setDmem_dmem (s : State) (v : Memory) : (s.setDmem v).dmem = v := rfl
@[simp] theorem State.setDmem_unsynced (s : State) (v : Memory) : (s.setDmem v).unsynced = s.unsynced := rfl

@[simp] theorem State.setUnsynced_cfg (s : State) (v : List Nat) : (s.setUnsynced v).cfg = s.cfg := rfl
@[simp] theorem State.setUnsynced_pc (s : State) (v : List Nat) : (s.setUnsynced v).pc = s.pc := rfl
@[simp] theorem State.setUnsynced_bank (s : State) (v : List Nat) : (s.setUnsynced v).bank = s.bank := rfl
@[simp] theorem State.setUnsynced_regs (s : State) (v : List Nat) : (s.setUnsynced v).regs = s.regs := rfl
@[simp] theorem State.setUnsynced_stat (s : State) (v : List Nat) : (s.setUnsynced v).stat = s.stat := rfl
@[simp] theorem State.setUnsynced_spr (s : State) (v : List Nat) : (s.setUnsynced v).spr = s.spr := rfl
@[simp] theorem State.setUnsynced_ecode (s : State) (v : List Nat) : (s.setUnsynced v).ecode = s.ecode := rfl
@[simp] theorem State.setUnsynced_halted (s : State) (v : List Nat) : (s.setUnsynced v).halted = s.halted := rfl
@[simp] theorem State.setUnsynced_haltInfo (s : State) (v : List Nat) : (s.setUnsynced v).haltInfo = s.haltInfo := rfl
@[simp] theorem State.setUnsynced_sysctpValid (s : State) (v : List Nat) : (s.setUnsynced v).sysctpValid = s.sysctpValid := rfl
@[simp] theorem State.setUnsynced_sysretPc (s : State) (v : List Nat) : (s.setUnsynced v).sysretPc = s.sysretPc := rfl
@[simp] theorem State.setUnsynced_sysretPml (s : State) (v : List Nat) : (s.setUnsynced v).sysretPml = s.sysretPml := rfl
@[simp] theorem State.setUnsynced_locks (s : State) (v : List Nat) : (s.setUnsynced v).locks = s.locks := rfl
@[simp] theorem State.setUnsynced_imem (s : State) (v : List Nat) : (s.setUnsynced v).imem = s.imem := rfl
@[simp] theorem State.setUnsynced_dmem (s : State) (v : List Nat) : (s.setUnsynced v).dmem = s.dmem := rfl
@[simp] theorem State.setUnsynced_unsynced (s : State) (v : List Nat) : (s.setUnsynced v).unsynced = v := rfl

@[simp] theorem State.setSysret_cfg (s : State) (ret : Word) (level : BitVec 3) : (s.setSysret ret level).cfg = s.cfg := rfl
@[simp] theorem State.setSysret_pc (s : State) (ret : Word) (level : BitVec 3) : (s.setSysret ret level).pc = s.pc := rfl
@[simp] theorem State.setSysret_bank (s : State) (ret : Word) (level : BitVec 3) : (s.setSysret ret level).bank = s.bank := rfl
@[simp] theorem State.setSysret_regs (s : State) (ret : Word) (level : BitVec 3) : (s.setSysret ret level).regs = s.regs := rfl
@[simp] theorem State.setSysret_stat (s : State) (ret : Word) (level : BitVec 3) : (s.setSysret ret level).stat = s.stat := rfl
@[simp] theorem State.setSysret_spr (s : State) (ret : Word) (level : BitVec 3) : (s.setSysret ret level).spr = s.spr := rfl
@[simp] theorem State.setSysret_ecode (s : State) (ret : Word) (level : BitVec 3) : (s.setSysret ret level).ecode = s.ecode := rfl
@[simp] theorem State.setSysret_halted (s : State) (ret : Word) (level : BitVec 3) : (s.setSysret ret level).halted = s.halted := rfl
@[simp] theorem State.setSysret_haltInfo (s : State) (ret : Word) (level : BitVec 3) : (s.setSysret ret level).haltInfo = s.haltInfo := rfl
@[simp] theorem State.setSysret_sysctpValid (s : State) (ret : Word) (level : BitVec 3) : (s.setSysret ret level).sysctpValid = s.sysctpValid := rfl
@[simp] theorem State.setSysret_sysretPc (s : State) (ret : Word) (level : BitVec 3) : (s.setSysret ret level).sysretPc = ret := rfl
@[simp] theorem State.setSysret_sysretPml (s : State) (ret : Word) (level : BitVec 3) : (s.setSysret ret level).sysretPml = level := rfl
@[simp] theorem State.setSysret_locks (s : State) (ret : Word) (level : BitVec 3) : (s.setSysret ret level).locks = s.locks := rfl
@[simp] theorem State.setSysret_imem (s : State) (ret : Word) (level : BitVec 3) : (s.setSysret ret level).imem = s.imem := rfl
@[simp] theorem State.setSysret_dmem (s : State) (ret : Word) (level : BitVec 3) : (s.setSysret ret level).dmem = s.dmem := rfl
@[simp] theorem State.setSysret_unsynced (s : State) (ret : Word) (level : BitVec 3) : (s.setSysret ret level).unsynced = s.unsynced := rfl

@[simp] theorem State.setHalt_cfg (s : State) (code : BitVec 16) (info : Word) : (s.setHalt code info).cfg = s.cfg := rfl
@[simp] theorem State.setHalt_pc (s : State) (code : BitVec 16) (info : Word) : (s.setHalt code info).pc = s.pc := rfl
@[simp] theorem State.setHalt_bank (s : State) (code : BitVec 16) (info : Word) : (s.setHalt code info).bank = s.bank := rfl
@[simp] theorem State.setHalt_regs (s : State) (code : BitVec 16) (info : Word) : (s.setHalt code info).regs = s.regs := rfl
@[simp] theorem State.setHalt_stat (s : State) (code : BitVec 16) (info : Word) : (s.setHalt code info).stat = s.stat := rfl
@[simp] theorem State.setHalt_spr (s : State) (code : BitVec 16) (info : Word) : (s.setHalt code info).spr = s.spr := rfl
@[simp] theorem State.setHalt_ecode (s : State) (code : BitVec 16) (info : Word) : (s.setHalt code info).ecode = code := rfl
@[simp] theorem State.setHalt_halted (s : State) (code : BitVec 16) (info : Word) : (s.setHalt code info).halted = true := rfl
@[simp] theorem State.setHalt_haltInfo (s : State) (code : BitVec 16) (info : Word) : (s.setHalt code info).haltInfo = info := rfl
@[simp] theorem State.setHalt_sysctpValid (s : State) (code : BitVec 16) (info : Word) : (s.setHalt code info).sysctpValid = s.sysctpValid := rfl
@[simp] theorem State.setHalt_sysretPc (s : State) (code : BitVec 16) (info : Word) : (s.setHalt code info).sysretPc = s.sysretPc := rfl
@[simp] theorem State.setHalt_sysretPml (s : State) (code : BitVec 16) (info : Word) : (s.setHalt code info).sysretPml = s.sysretPml := rfl
@[simp] theorem State.setHalt_locks (s : State) (code : BitVec 16) (info : Word) : (s.setHalt code info).locks = s.locks := rfl
@[simp] theorem State.setHalt_imem (s : State) (code : BitVec 16) (info : Word) : (s.setHalt code info).imem = s.imem := rfl
@[simp] theorem State.setHalt_dmem (s : State) (code : BitVec 16) (info : Word) : (s.setHalt code info).dmem = s.dmem := rfl
@[simp] theorem State.setHalt_unsynced (s : State) (code : BitVec 16) (info : Word) : (s.setHalt code info).unsynced = s.unsynced := rfl

end Sys2Proof.Machine
end

