-- ==== Sys2Proof/Laws/Memory.lean ====
section
/-!
SUPPORT. The laws of memory and of the address sets: a read after a write, the canonical form, which every operation keeps, and
the bytes that a load assembles and a store takes apart.
-/

namespace Sys2Proof.Machine

/-! ## One byte -/

/-- A byte written is read back, and every other address reads as before. -/
theorem Memory.read_write (m : Memory) (a q : Nat) (b : Byte) :
    Memory.read (Memory.write m a b) q = if q = a then some b else Memory.read m q := by
  induction m with
  | nil => simp [Memory.write, Memory.read, eq_comm]
  | cons p m ih =>
    obtain ⟨k, v⟩ := p
    simp only [Memory.write]
    split
    · simp [Memory.read, eq_comm]
    · split
      · rename_i h; subst h
        by_cases hq : a = q <;> simp [Memory.read, hq, eq_comm]
      · rename_i h1 h2
        simp only [Memory.read, ih]
        by_cases hq : k = q
        · subst hq
          have : ¬k = a := fun h => h2 h.symm
          simp [this]
        · simp [hq]

theorem Memory.mem_keys_write (m : Memory) (a k : Nat) (b : Byte) :
    k ∈ (Memory.write m a b).map Prod.fst ↔ k = a ∨ k ∈ m.map Prod.fst := by
  induction m with
  | nil => simp [Memory.write]
  | cons p m ih =>
    obtain ⟨j, v⟩ := p
    simp only [Memory.write]
    split
    · simp
    · split
      · rename_i h; subst h; simp
      · simp only [List.map_cons, List.mem_cons, ih]
        tauto

/-- A write keeps the canonical form. -/
theorem Memory.write_wf (m : Memory) (a : Nat) (b : Byte) (h : Memory.wf m) (ha : a < 4294967296) :
    Memory.wf (Memory.write m a b) := by
  refine ⟨?_, fun k hk => ?_⟩
  · induction m with
    | nil => simp [Memory.write]
    | cons p m ih =>
      obtain ⟨j, v⟩ := p
      obtain ⟨h1, h2⟩ := h
      simp only [List.map_cons, List.pairwise_cons] at h1
      simp only [Memory.write]
      split
      · rename_i hlt
        simp only [List.map_cons, List.pairwise_cons, List.mem_cons]
        refine ⟨fun c hc => ?_, h1.1, h1.2⟩
        rcases hc with rfl | hc
        · exact hlt
        · exact lt_trans hlt (h1.1 c hc)
      · split
        · rename_i he; subst he
          simpa using h1
        · rename_i hlt hne
          simp only [List.map_cons, List.pairwise_cons]
          refine ⟨fun c hc => ?_, ih ⟨h1.2, fun k hk => h2 k (by simp [hk])⟩⟩
          rcases (Memory.mem_keys_write m a c b).1 hc with rfl | hc
          · omega
          · exact h1.1 c hc
  · rcases (Memory.mem_keys_write m a k b).1 hk with rfl | hk
    · exact ha
    · exact h.2 k hk

/-! ## The bytes of a store -/

/-- Distances below 2^32 name different addresses. -/
theorem add_ofNat_inj (a : Word) (j k : Nat) (hj : j < 4294967296) (hk : k < 4294967296)
    (h : a + BitVec.ofNat 32 j = a + BitVec.ofNat 32 k) : j = k := by
  have h' := BitVec.add_right_inj a |>.1 h
  have := congrArg BitVec.toNat h'
  simp only [BitVec.toNat_ofNat] at this
  omega

theorem add_one_add_ofNat (a : Word) (k : Nat) : a + 1 + BitVec.ofNat 32 k = a + BitVec.ofNat 32 (k + 1) := by
  rw [BitVec.add_assoc]
  congr 1
  apply BitVec.eq_of_toNat_eq
  simp [BitVec.toNat_add, BitVec.toNat_ofNat, Nat.add_comm]

/-- Outside the n bytes at `a` a store changes nothing. -/
theorem read_writeBytes_out (m : Memory) (a v : Word) (n q : Nat)
    (h : ∀ k < n, q ≠ (a + BitVec.ofNat 32 k).toNat) : Memory.read (writeBytes m a v n) q = Memory.read m q := by
  induction n generalizing m a with
  | zero => rfl
  | succ n ih =>
    have h0 : q ≠ a.toNat := by simpa using h 0 (by omega)
    rw [writeBytes, ih, Memory.read_write, if_neg h0]
    intro k hk
    rw [add_one_add_ofNat]
    exact h (k + 1) (by omega)

/-- The byte at offset `k` of a store of n bytes (20_memory R75). -/
theorem read_writeBytes_in (m : Memory) (a v : Word) (n k : Nat) (hk : k < n) (hn : n ≤ 4294967296) :
    Memory.read (writeBytes m a v n) (a + BitVec.ofNat 32 k).toNat = some (v.extractLsb' (8 * (n - 1 - k)) 8) := by
  induction n generalizing m a k with
  | zero => omega
  | succ n ih =>
    rw [writeBytes]
    cases k with
    | zero =>
      rw [read_writeBytes_out, Memory.read_write]
      · simp
      · intro j hj hc
        rw [add_one_add_ofNat] at hc
        have := add_ofNat_inj a 0 (j + 1) (by omega) (by omega) (BitVec.eq_of_toNat_eq hc)
        omega
    | succ k =>
      rw [← add_one_add_ofNat, ih _ _ k (by omega) (by omega)]
      congr 3
      omega

theorem writeBytes_wf (m : Memory) (a v : Word) (n : Nat) (h : Memory.wf m) : Memory.wf (writeBytes m a v n) := by
  induction n generalizing m a with
  | zero => exact h
  | succ n ih => exact ih _ _ (Memory.write_wf _ _ _ h a.isLt)

/-! ## Address sets -/

theorem mem_insertAddr (a b : Nat) (m : List Nat) : b ∈ insertAddr a m ↔ b = a ∨ b ∈ m := by
  induction m with
  | nil => simp [insertAddr]
  | cons k m ih =>
    simp only [insertAddr]
    split
    · simp
    · split
      · rename_i h; subst h; simp
      · simp only [List.mem_cons, ih]
        tauto

theorem insertAddr_wf (a : Nat) (m : List Nat) (h : addrSetWf m) (ha : a < 4294967296) : addrSetWf (insertAddr a m) := by
  refine ⟨?_, fun k hk => ?_⟩
  · induction m with
    | nil => simp [insertAddr]
    | cons j m ih =>
      obtain ⟨h1, h2⟩ := h
      rw [List.pairwise_cons] at h1
      simp only [insertAddr]
      split
      · rename_i hlt
        simp only [List.pairwise_cons, List.mem_cons]
        refine ⟨fun c hc => ?_, h1.1, h1.2⟩
        rcases hc with rfl | hc
        · exact hlt
        · exact lt_trans hlt (h1.1 c hc)
      · split
        · simpa using h1
        · rename_i hlt hne
          rw [List.pairwise_cons]
          refine ⟨fun c hc => ?_, ih ⟨h1.2, fun k hk => h2 k (by simp [hk])⟩⟩
          rcases (mem_insertAddr a c m).1 hc with rfl | hc
          · omega
          · exact h1.1 c hc
  · rcases (mem_insertAddr a k m).1 hk with rfl | hk
    · exact ha
    · exact h.2 k hk

theorem mem_insertAddrs (u : List Nat) (a : Word) (n b : Nat) :
    b ∈ insertAddrs u a n ↔ b ∈ u ∨ ∃ k < n, b = (a + BitVec.ofNat 32 k).toNat := by
  induction n generalizing u a with
  | zero => simp [insertAddrs]
  | succ n ih =>
    rw [insertAddrs, ih, mem_insertAddr]
    constructor
    · rintro ((rfl | h) | ⟨k, hk, rfl⟩)
      · exact .inr ⟨0, by omega, by simp⟩
      · exact .inl h
      · exact .inr ⟨k + 1, by omega, by rw [add_one_add_ofNat]⟩
    · rintro (h | ⟨k, hk, rfl⟩)
      · exact .inl (.inr h)
      · cases k with
        | zero => exact .inl (.inl (by simp))
        | succ k => exact .inr ⟨k, by omega, by rw [add_one_add_ofNat]⟩

theorem insertAddrs_wf (u : List Nat) (a : Word) (n : Nat) (h : addrSetWf u) : addrSetWf (insertAddrs u a n) := by
  induction n generalizing u a with
  | zero => exact h
  | succ n ih => exact ih _ _ (insertAddr_wf _ _ h a.isLt)

theorem addrSetWf_filter (m : List Nat) (p : Nat → Bool) (h : addrSetWf m) : addrSetWf (m.filter p) :=
  ⟨h.1.filter p, fun k hk => h.2 k (List.mem_of_mem_filter hk)⟩

/-! ## Loads -/

/-- The word that a four-byte load assembles (20_memory R74). -/
theorem memRead_four (s : State) (a : Word) :
    memRead s a 4 = s.readByte a ++ s.readByte (a + 1) ++ s.readByte (a + 2) ++ s.readByte (a + 3) := by
  have e2 : a + 1 + 1 = a + 2 := by rw [BitVec.add_assoc]; rfl
  have e3 : a + 2 + 1 = a + 3 := by rw [BitVec.add_assoc]; rfl
  simp only [memRead, e2, e3]
  apply BitVec.eq_of_getLsbD_eq
  intro i hi
  simp only [BitVec.getLsbD_or, BitVec.getLsbD_shiftLeft, BitVec.getLsbD_setWidth, BitVec.getLsbD_append]
  interval_cases i <;> simp

theorem memRead_three (s : State) (a : Word) :
    memRead s a 3 = 0#8 ++ s.readByte a ++ s.readByte (a + 1) ++ s.readByte (a + 2) := by
  have e2 : a + 1 + 1 = a + 2 := by rw [BitVec.add_assoc]; rfl
  simp only [memRead, e2]
  apply BitVec.eq_of_getLsbD_eq
  intro i hi
  simp only [BitVec.getLsbD_or, BitVec.getLsbD_shiftLeft, BitVec.getLsbD_setWidth, BitVec.getLsbD_append]
  interval_cases i <;> simp

theorem memRead_two (s : State) (a : Word) : memRead s a 2 = 0#16 ++ s.readByte a ++ s.readByte (a + 1) := by
  simp only [memRead]
  apply BitVec.eq_of_getLsbD_eq
  intro i hi
  simp only [BitVec.getLsbD_or, BitVec.getLsbD_shiftLeft, BitVec.getLsbD_setWidth, BitVec.getLsbD_append]
  interval_cases i <;> simp

theorem memRead_one (s : State) (a : Word) : memRead s a 1 = 0#24 ++ s.readByte a := by
  simp only [memRead]
  apply BitVec.eq_of_getLsbD_eq
  intro i hi
  simp only [BitVec.getLsbD_or, BitVec.getLsbD_shiftLeft, BitVec.getLsbD_setWidth, BitVec.getLsbD_append]
  interval_cases i <;> simp

/-- What a load returns depends on data memory only. -/
theorem memRead_congr (s t : State) (h : t.dmem = s.dmem) (a : Word) (n : Nat) : memRead t a n = memRead s a n := by
  induction n generalizing a with
  | zero => rfl
  | succ n ih => simp [memRead, State.readByte, h, ih]

/-! ## Stores, as the loads, the fetch and the next sync see them -/

@[simp] theorem memWrite_dmem (s : State) (a v : Word) (n : Nat) : (memWrite s a v n).dmem = writeBytes s.dmem a v n := by
  unfold memWrite
  split <;> rfl

theorem memWrite_unsynced (s : State) (a v : Word) (n : Nat) :
    (memWrite s a v n).unsynced = if s.cfg.unifiedMemory then insertAddrs s.unsynced a n else s.unsynced := by
  unfold memWrite
  split <;> simp_all

/-- A store changes data memory and the unsynced addresses, and nothing else. -/
theorem memWrite_eq (s : State) (a v : Word) (n : Nat) :
    memWrite s a v n =
      { s with
        dmem := writeBytes s.dmem a v n
        unsynced := if s.cfg.unifiedMemory then insertAddrs s.unsynced a n else s.unsynced } := by
  unfold memWrite State.setDmem State.setUnsynced
  split <;> rfl

/-- The byte at offset `k` after a store of n bytes. -/
theorem readByte_memWrite_in (s : State) (a v : Word) (n k : Nat) (hk : k < n) (hn : n ≤ 4294967296) :
    (memWrite s a v n).readByte (a + BitVec.ofNat 32 k) = v.extractLsb' (8 * (n - 1 - k)) 8 := by
  rw [State.readByte, memWrite_dmem, read_writeBytes_in _ _ _ _ _ hk hn, Option.getD_some]

/-- Outside the n bytes stored every byte reads as before. -/
theorem readByte_memWrite_out (s : State) (a v b : Word) (n : Nat) (h : ∀ k < n, b ≠ a + BitVec.ofNat 32 k) :
    (memWrite s a v n).readByte b = s.readByte b := by
  have : ∀ k < n, b.toNat ≠ (a + BitVec.ofNat 32 k).toNat := fun k hk e => h k hk (BitVec.eq_of_toNat_eq e)
  simp [State.readByte, read_writeBytes_out _ _ _ _ _ this]

/-- What the fetch sees depends on the two memories and the parameters only. -/
theorem fetchByte_congr (s t : State) (hc : t.cfg = s.cfg) (hi : t.imem = s.imem) (hd : t.dmem = s.dmem) (a : Word) :
    fetchByte t a = fetchByte s a := by
  simp [fetchByte, fetchMemory, hc, hi, hd]

/-- A byte that a store does not write is fetched as before. -/
theorem fetchByte_memWrite_out (s : State) (a v b : Word) (n : Nat) (h : ∀ k < n, b ≠ a + BitVec.ofNat 32 k) :
    fetchByte (memWrite s a v n) b = fetchByte s b := by
  have : ∀ k < n, b.toNat ≠ (a + BitVec.ofNat 32 k).toNat := fun k hk e => h k hk (BitVec.eq_of_toNat_eq e)
  rw [memWrite_eq]
  unfold fetchByte fetchMemory
  simp only
  split
  · rfl
  · split
    · exact read_writeBytes_out _ _ _ _ _ this
    · rfl

/-- With separate memories no store reaches what the fetch reads (20_memory R71). -/
theorem fetchByte_memWrite_separate (s : State) (a v b : Word) (n : Nat) (h : s.cfg.unifiedMemory = false) :
    fetchByte (memWrite s a v n) b = fetchByte s b := by
  rw [memWrite_eq]
  simp [fetchByte, fetchMemory, h]

/-! ## The platform's answer -/

/-- An access is answered when the platform backs each of its bytes (20_memory R81). -/
theorem backedRange_iff (c : Config) (a : Word) (n : Nat) :
    backedRange c a n = true ↔ ∀ k < n, backed c (a + BitVec.ofNat 32 k).toNat = true := by
  induction n generalizing a with
  | zero => simp [backedRange]
  | succ n ih =>
    rw [backedRange, Bool.and_eq_true, ih]
    constructor
    · rintro ⟨h0, h⟩ k hk
      cases k with
      | zero => simpa using h0
      | succ k => rw [← add_one_add_ofNat]; exact h k (by omega)
    · intro h
      refine ⟨by simpa using h 0 (by omega), fun k hk => ?_⟩
      rw [add_one_add_ofNat]
      exact h (k + 1) (by omega)

theorem backed_iff (c : Config) (a : Nat) : backed c a = true ↔ ∀ r ∈ c.unbacked, ¬(r.base ≤ a ∧ a < r.base + r.size) := by
  simp only [backed, List.all_eq_true, Bool.not_eq_true', Bool.and_eq_false_iff, decide_eq_false_iff_not, not_and_or]

/-! ## Placing an instruction -/

theorem placeWord_wf (m : Memory) (a w : Word) (h : Memory.wf m) : Memory.wf (placeWord m a w) :=
  Memory.write_wf _ _ _
    (Memory.write_wf _ _ _ (Memory.write_wf _ _ _ (Memory.write_wf _ _ _ h a.isLt) (a + 1).isLt) (a + 2).isLt) (a + 3).isLt

/-- A byte of the placed word is read at each of the four addresses, and every other address reads as before. -/
theorem read_placeWord (m : Memory) (a w : Word) (q : Nat) :
    Memory.read (placeWord m a w) q =
      if q = (a + 3).toNat then some (byteOfWord w 3)
      else if q = (a + 2).toNat then some (byteOfWord w 2)
      else if q = (a + 1).toNat then some (byteOfWord w 1)
      else if q = a.toNat then some (byteOfWord w 0)
      else Memory.read m q := by
  simp [placeWord, Memory.read_write]

/-- The memory at reset is canonical. -/
theorem reset_memory_wf : Memory.wf State.reset.imem ∧ Memory.wf State.reset.dmem := by decide

end Sys2Proof.Machine
end

