-- ==== Sys2Proof/Laws/Registers.lean ====
section
/-!
SUPPORT. Reads after writes of the register files: register 0, the shared registers 16 to 23, and the frames.
-/

namespace Sys2Proof.Machine

@[simp] theorem RegFiles.readGp_zero (f : RegFiles) : f.readGp 0#5 = 0#32 := by simp [RegFiles.readGp]

@[simp] theorem RegFiles.readSys_zero (f : RegFiles) : f.readSys 0#5 = 0#32 := by simp [RegFiles.readSys]

@[simp] theorem RegFiles.read_zero (f : RegFiles) (b : Bank) : f.read b 0#5 = 0#32 := by cases b <;> simp [RegFiles.read]

@[simp] theorem RegFiles.writeGp_zero (f : RegFiles) (v : Word) : f.writeGp 0#5 v = f := by simp [RegFiles.writeGp]

@[simp] theorem RegFiles.writeSys_zero (f : RegFiles) (v : Word) : f.writeSys 0#5 v = f := by simp [RegFiles.writeSys]

/-- The two banks read alike in the shared registers (10_state R27). -/
theorem RegFiles.readSys_eq_readGp (f : RegFiles) (r : RegNum) (h : 16 ≤ r.toNat ∧ r.toNat < 24) :
    f.readSys r = f.readGp r := by
  have h16 : ¬ r.toNat < 16 := by omega
  simp [RegFiles.readSys, RegFiles.readGp, h16, h.2]

theorem RegFiles.readGp_writeGp (f : RegFiles) (r q : RegNum) (v : Word) :
    (f.writeGp r v).readGp q = if q = r then (if r = 0 then 0 else v) else f.readGp q := by
  unfold RegFiles.writeGp RegFiles.readGp
  by_cases hr : r = 0#5
  · subst hr
    by_cases hq : q = 0#5 <;> simp [hq]
  · by_cases hq : q = r
    · subst hq; simp [hr]
    · have : r.toNat ≠ q.toNat := fun h => hq (BitVec.eq_of_toNat_eq h.symm)
      simp [hr, hq, Vector.getElem_set_ne, this]

theorem RegFiles.readGlb_writeGp (f : RegFiles) (r q : RegNum) (v : Word) : (f.writeGp r v).readGlb q = f.readGlb q := by
  unfold RegFiles.writeGp RegFiles.readGlb
  split <;> rfl

theorem RegFiles.readSys_writeGp (f : RegFiles) (r q : RegNum) (v : Word) :
    (f.writeGp r v).readSys q = if q = r ∧ 16 ≤ r.toNat ∧ r.toNat < 24 then v else f.readSys q := by
  unfold RegFiles.writeGp RegFiles.readSys
  by_cases hr : r = 0#5
  · subst hr; simp
  · by_cases hq : q = r
    · subst hq
      by_cases h1 : q.toNat < 16
      · have : ¬ 16 ≤ q.toNat := by omega
        simp [hr, h1, this]
      · have h16 : 16 ≤ q.toNat := by omega
        by_cases h2 : q.toNat < 24 <;> simp [hr, h1, h2, h16]
    · have : r.toNat ≠ q.toNat := fun h => hq (BitVec.eq_of_toNat_eq h.symm)
      simp only [BitVec.ofNat_eq_ofNat, hr, if_false, hq, false_and]
      split
      · rfl
      · split
        · rfl
        · split
          · simp [Vector.getElem_set_ne, this]
          · rfl

theorem RegFiles.readSys_writeSys (f : RegFiles) (r q : RegNum) (v : Word) :
    (f.writeSys r v).readSys q = if q = r then (if r = 0 then 0 else v) else f.readSys q := by
  unfold RegFiles.writeSys
  by_cases hr : r = 0#5
  · subst hr
    by_cases hq : q = 0#5
    · subst hq; simp [RegFiles.readSys]
    · simp [hq]
  · simp only [BitVec.ofNat_eq_ofNat, hr, if_false]
    by_cases hq : q = r
    · subst hq
      unfold RegFiles.readSys
      by_cases h1 : q.toNat < 16
      · simp [hr, h1]
      · by_cases h2 : q.toNat < 24 <;> simp [hr, h1, h2]
    · have hne : r.toNat ≠ q.toNat := fun h => hq (BitVec.eq_of_toNat_eq h.symm)
      simp only [hq, if_false]
      unfold RegFiles.readSys
      by_cases hq0 : q = 0#5
      · simp [hq0]
      · by_cases h1 : r.toNat < 16 <;> by_cases g1 : q.toNat < 16 <;>
          by_cases h2 : r.toNat < 24 <;> by_cases g2 : q.toNat < 24 <;>
          simp [h1, g1, h2, g2, hne]
        have : r.toNat - 24 ≠ q.toNat - 24 := by omega
        simp [hq0, Vector.getElem_set_ne, this]

theorem RegFiles.readGlb_writeSys (f : RegFiles) (r q : RegNum) (v : Word) :
    (f.writeSys r v).readGlb q = f.readGlb q := by
  unfold RegFiles.writeSys RegFiles.readGlb
  split
  · rfl
  · split
    · rfl
    · split <;> rfl

theorem RegFiles.readGp_writeSys (f : RegFiles) (r q : RegNum) (v : Word) :
    (f.writeSys r v).readGp q = if q = r ∧ 16 ≤ r.toNat ∧ r.toNat < 24 then v else f.readGp q := by
  unfold RegFiles.writeSys RegFiles.readGp
  by_cases hr : r = 0#5
  · subst hr; simp
  · simp only [BitVec.ofNat_eq_ofNat, hr, if_false]
    by_cases h1 : r.toNat < 16
    · have : ¬ 16 ≤ r.toNat := by omega
      simp [h1, this]
    · have h16 : 16 ≤ r.toNat := by omega
      by_cases h2 : r.toNat < 24
      · by_cases hq : q = r
        · subst hq; simp [h1, h2, h16, hr]
        · have hne : r.toNat ≠ q.toNat := fun h => hq (BitVec.eq_of_toNat_eq h.symm)
          simp [h1, h2, hq, Vector.getElem_set_ne, hne]
      · simp [h1, h2]

theorem RegFiles.readGlb_writeGlb (f : RegFiles) (r q : RegNum) (v : Word) :
    (f.writeGlb r v).readGlb q = if q = r then v else f.readGlb q := by
  unfold RegFiles.writeGlb RegFiles.readGlb
  by_cases hq : q = r
  · subst hq; simp
  · have hne : r.toNat ≠ q.toNat := fun h => hq (BitVec.eq_of_toNat_eq h.symm)
    simp [hq, Vector.getElem_set_ne, hne]

@[simp] theorem RegFiles.readGp_writeGlb (f : RegFiles) (r q : RegNum) (v : Word) :
    (f.writeGlb r v).readGp q = f.readGp q := rfl

@[simp] theorem RegFiles.readSys_writeGlb (f : RegFiles) (r q : RegNum) (v : Word) :
    (f.writeGlb r v).readSys q = f.readSys q := rfl

/-- A write to a bank leaves GLBREGF (10_state R30). -/
@[simp] theorem RegFiles.write_glb (f : RegFiles) (b : Bank) (r : RegNum) (v : Word) : (f.write b r v).glb = f.glb := by
  cases b
  · simp only [RegFiles.write, RegFiles.writeGp]
    split <;> rfl
  · simp only [RegFiles.write, RegFiles.writeSys]
    split
    · rfl
    · split
      · rfl
      · split <;> rfl

/-- A write to a bank is read back there: 0 in register 0, the value elsewhere (10_state R24, R25). -/
theorem RegFiles.read_write_same (f : RegFiles) (b : Bank) (r : RegNum) (v : Word) :
    (f.write b r v).read b r = if r = 0 then 0 else v := by
  cases b
  · simp [RegFiles.write, RegFiles.read, RegFiles.readGp_writeGp]
  · simp [RegFiles.write, RegFiles.read, RegFiles.readSys_writeSys]

/-- A write to a bank leaves every other number alone in both banks. -/
theorem RegFiles.read_write_ne (f : RegFiles) (b c : Bank) (r q : RegNum) (v : Word) (h : q ≠ r) :
    (f.write b r v).read c q = f.read c q := by
  cases b <;> cases c <;>
    simp [RegFiles.write, RegFiles.read, RegFiles.readGp_writeGp, RegFiles.readSys_writeGp, RegFiles.readGp_writeSys,
      RegFiles.readSys_writeSys, h]

/-- A write to a register that is not shared leaves that number alone in the other bank. -/
theorem RegFiles.read_write_other (f : RegFiles) (b c : Bank) (r : RegNum) (v : Word) (hb : b ≠ c)
    (h : ¬(16 ≤ r.toNat ∧ r.toNat < 24)) : (f.write b r v).read c r = f.read c r := by
  cases b <;> cases c <;>
    simp_all [RegFiles.write, RegFiles.read, RegFiles.readSys_writeGp, RegFiles.readGp_writeSys]

end Sys2Proof.Machine
end

