-- ==== Sys2Proof/Laws/Ops.lean ====
section
/-!
SUPPORT. For each shared operation one lemma that says everything it does, so that no proof unfolds it.
-/

namespace Sys2Proof.Machine

/-! ## Registers -/

/-- A state whose registers are those of `s` after a write to a bank stands in the frame `WroteReg`. -/
theorem wroteReg_of_regs (s t : State) (b : Bank) (rd : RegNum) (v : Word) (h : t.regs = s.regs.write b rd v) :
    WroteReg b rd v s t := by
  refine ⟨by rw [h, RegFiles.read_write_same], fun r => ?_, fun r hr => ?_, fun hs => ?_⟩
  · simp [RegFiles.readGlb, h]
  · have hg := RegFiles.read_write_ne s.regs b .gp rd r v hr
    have hy := RegFiles.read_write_ne s.regs b .sys rd r v hr
    rw [h]
    exact ⟨hg, hy⟩
  · rw [h]
    exact RegFiles.read_write_other _ _ _ _ _ (by cases b <;> simp [Bank.other]) hs

theorem wroteGlb_of_regs (s t : State) (rd : RegNum) (v : Word) (h : t.regs = s.regs.writeGlb rd v) :
    WroteGlb rd v s t := by
  refine ⟨by simp [h, RegFiles.readGlb_writeGlb], fun r hr => ?_, fun r => ?_⟩
  · simp [h, RegFiles.readGlb_writeGlb, hr]
  · simp [h]

theorem sameRegs_of_regs (s t : State) (h : t.regs = s.regs) : SameRegs s t := fun r => by simp [h]

/-- Nothing but registers, `pc` and STAT differs. -/
theorem sameRest_update (s : State) (pc : Word) (regs : RegFiles) (stat : Stat) :
    SameRest s { s with pc := pc, regs := regs, stat := stat } :=
  ⟨⟨⟨rfl, rfl, rfl, rfl, rfl, rfl, rfl, rfl⟩, rfl, rfl⟩, fun _ => rfl, fun _ => rfl, rfl⟩

/-! ## STAT -/

theorem isZero_eq (r : Word) : isZero r = decide (r = 0) := by
  rfl

theorem setPml_eq (s : State) (v : BitVec 3) :
    s.setPml v = { s with stat := { s.stat with pml := if s.cfg.hasPml then v else s.stat.pml } } := by
  unfold State.setPml State.setStat
  split <;> rfl

theorem setPema_eq (s : State) (b : Bool) :
    s.setPema b = { s with stat := { s.stat with pema := if s.cfg.hasPml then b else s.stat.pema } } := by
  unfold State.setPema State.setStat
  split <;> rfl

theorem setOvOther_eq (s : State) : s.setOvOther = { s with stat := { s.stat with ov := ovOtherValue s } } := by
  unfold State.setOvOther ovOtherValue
  cases s.cfg.ovOther <;> rfl

theorem pml_of_hasPml (s : State) (h : s.cfg.hasPml = true) : s.pml = s.stat.pml := by simp [State.pml, h]

theorem pml_of_not_hasPml (s : State) (h : s.cfg.hasPml = false) : s.pml = 7 := by simp [State.pml, h]

/-! ## Exceptions and interrupts -/

theorem raiseException_eq (e : Exn) (info : Word) (s : State) : raiseException e info s = Raised e info s := rfl

theorem roiEnabled_iff (s : State) : interruptEnabled s.cfg.roiBit s = true ↔ RoiEnabled s := by
  simp [interruptEnabled, RoiEnabled]

theorem cpmiEnabled_iff (s : State) : interruptEnabled s.cfg.cpmiBit s = true ↔ CpmiEnabled s := by
  simp [interruptEnabled, CpmiEnabled]

/-! ## The ends of the Integer and Immediate instructions -/

theorem advance_eq (s : State) : advance s = { s with pc := s.pc + 4 } := rfl

/-- add, addi, sub, subi: Rd, Z, OV, and the ROI slot or the next instruction (60_exceptions R322). -/
theorem finishArith_eq (rd : RegNum) (r : Word) (ov : Bool) (s : State) :
    finishArith rd r ov s =
      { s with
        regs := s.regs.write s.bank rd r
        stat := { s.stat with z := decide (r = 0), ov := ov }
        pc := if ov = true ∧ interruptEnabled s.cfg.roiBit s = true then 0x00000010 else s.pc + 4 } := by
  unfold finishArith advanceOrRoi
  rw [isZero_eq]
  have he : interruptEnabled (((s.writeReg rd r).setZ (decide (r = 0))).setOv ov).cfg.roiBit
      (((s.writeReg rd r).setZ (decide (r = 0))).setOv ov) = interruptEnabled s.cfg.roiBit s := rfl
  rw [he]
  by_cases h : ov = true ∧ interruptEnabled s.cfg.roiBit s = true
  · rw [if_pos h, if_pos (by simpa using h)]; rfl
  · rw [if_neg h, if_neg (by simpa using h)]; rfl

/-- addu, addui, subu, subui: Rd and Z. -/
theorem finishKeepOv_eq (rd : RegNum) (r : Word) (s : State) :
    finishKeepOv rd r s =
      { s with
        regs := s.regs.write s.bank rd r
        stat := { s.stat with z := decide (r = 0) }
        pc := s.pc + 4 } := by
  unfold finishKeepOv
  rw [isZero_eq]
  rfl

/-- Logic, shift and compare: Rd, Z, and OV as `OV_OTHER` says. -/
theorem finishOther_eq (rd : RegNum) (r : Word) (s : State) :
    finishOther rd r s =
      { s with
        regs := s.regs.write s.bank rd r
        stat := { s.stat with z := decide (r = 0), ov := ovOtherValue s }
        pc := s.pc + 4 } := by
  unfold finishOther
  rw [isZero_eq, setOvOther_eq]
  rfl

/-! ## Loads and stores -/

theorem misaligned_eq (n : Nat) (a : Word) : misaligned n a = decide (a.toNat % n ≠ 0) := by
  by_cases h : a.toNat % n = 0 <;> simp [misaligned, h]

theorem backedRange_iff_Backed (s : State) (a : Word) (n : Nat) : backedRange s.cfg a n = true ↔ Backed s a n := by
  simp only [backedRange_iff, backed_iff, Backed]

/-- All that a load does: MISADDR, stuck, or its bytes in Rd. -/
theorem load_cases (n al : Nat) (rd : RegNum) (imm : BitVec 14) (rsa : RegNum) (s : State) :
    ((effectiveAddr s rsa imm).toNat % al ≠ 0 ∧
        load n al rd imm rsa s = .next (Raised .misaddr (effectiveAddr s rsa imm) s)) ∨
      ((effectiveAddr s rsa imm).toNat % al = 0 ∧ ¬Backed s (effectiveAddr s rsa imm) n ∧
        load n al rd imm rsa s = .fault (.unbackedAccess (effectiveAddr s rsa imm))) ∨
      ((effectiveAddr s rsa imm).toNat % al = 0 ∧ Backed s (effectiveAddr s rsa imm) n ∧
        load n al rd imm rsa s = .next { s with
          regs := s.regs.write s.bank rd (memRead s (effectiveAddr s rsa imm) n), pc := s.pc + 4 }) := by
  unfold load
  simp only [misaligned_eq, ← backedRange_iff_Backed]
  by_cases h1 : (effectiveAddr s rsa imm).toNat % al = 0
  · by_cases h2 : backedRange s.cfg (effectiveAddr s rsa imm) n = true
    · exact .inr (.inr ⟨h1, h2, by simp [h1, h2]; rfl⟩)
    · exact .inr (.inl ⟨h1, h2, by simp [h1, h2]⟩)
  · exact .inl ⟨h1, by simp [h1]; rfl⟩

/-- All that a store does: MISADDR, stuck, or its bytes in memory. -/
theorem store_cases (n al : Nat) (rsb : RegNum) (imm : BitVec 14) (rsa : RegNum) (s : State) :
    ((effectiveAddr s rsa imm).toNat % al ≠ 0 ∧
        store n al rsb imm rsa s = .next (Raised .misaddr (effectiveAddr s rsa imm) s)) ∨
      ((effectiveAddr s rsa imm).toNat % al = 0 ∧ ¬Backed s (effectiveAddr s rsa imm) n ∧
        store n al rsb imm rsa s = .fault (.unbackedAccess (effectiveAddr s rsa imm))) ∨
      ((effectiveAddr s rsa imm).toNat % al = 0 ∧ Backed s (effectiveAddr s rsa imm) n ∧
        store n al rsb imm rsa s = .next { s with
          dmem := writeBytes s.dmem (effectiveAddr s rsa imm) (s.readReg rsb) n
          unsynced :=
            if s.cfg.unifiedMemory then insertAddrs s.unsynced (effectiveAddr s rsa imm) n else s.unsynced
          pc := s.pc + 4 }) := by
  unfold store
  simp only [misaligned_eq, ← backedRange_iff_Backed, memWrite_eq]
  by_cases h1 : (effectiveAddr s rsa imm).toNat % al = 0
  · by_cases h2 : backedRange s.cfg (effectiveAddr s rsa imm) n = true
    · exact .inr (.inr ⟨h1, h2, by simp [h1, h2]; rfl⟩)
    · exact .inr (.inl ⟨h1, h2, by simp [h1, h2]⟩)
  · exact .inl ⟨h1, by simp [h1]; rfl⟩

/-! ## Branches and jumps -/

theorem branch_eq (c : Bool) (imm : BitVec 14) (s : State) :
    branch c imm s = { s with pc := if c then s.pc + imm.signExtend 32 else s.pc + 4 } := by
  unfold branch
  split <;> rfl

theorem linkTo_eq (target : Word) (s : State) :
    linkTo target s = { s with regs := s.regs.write s.bank 4 (s.pc + 4), pc := target } := rfl

/-! ## System calls -/

/-- An accepted system call (45_system R241). -/
theorem enterSyscall_eq (e : SyscallEntry) (s : State) :
    enterSyscall e s =
      { s with
        stat :=
          { s.stat with
            pema := if s.cfg.hasPml then true else s.stat.pema
            pml := if s.cfg.hasPml then raisedLevel s.pml e.runPml else s.stat.pml }
        sysretPc := s.pc + 4
        sysretPml := s.pml
        bank := .sys
        pc := e.addr } := by
  unfold enterSyscall
  rw [setPml_eq, setPema_eq]
  rfl

/-- A rejected system call (45_system R241). -/
theorem rejectSyscall_eq (e : Exn) (n : BitVec 8) (s : State) :
    rejectSyscall e n s =
      Raised e (n.setWidth 32) { s with stat := { s.stat with pema := if s.cfg.hasPml then false else s.stat.pema } } := by
  unfold rejectSyscall
  rw [setPema_eq]
  rfl

/-- The return from a system call (45_system R242). -/
theorem leaveSyscall_eq (s : State) :
    leaveSyscall s =
      { s with
        stat := { s.stat with pml := if s.cfg.hasPml then s.sysretPml else s.stat.pml }
        bank := .gp
        pc := s.sysretPc } := by
  unfold leaveSyscall
  rw [setPml_eq]
  rfl

theorem raisedLevel_toNat (a b : BitVec 3) : (raisedLevel a b).toNat = max a.toNat b.toNat := by
  unfold raisedLevel
  split <;> omega

/-! ## System Registers -/

/-- What a stspr that completes leaves: the register written, `pc` advanced, nothing else. -/
theorem writeSpr_eq (v : Word) (s : State) (r : Spr) :
    writeSpr v s r =
      { s with
        stat :=
          if r = .stat then { s.stat with gine := v.getLsbD 1, spcp := v.getLsbD 0 } else s.stat
        spr :=
          { opcarp := if r = .opcarp ∧ s.cfg.opcarpHardcoded = false then v else s.spr.opcarp
            cpidtp := if r = .cpidtp ∧ s.cfg.cpidtpHardcoded = false then v else s.spr.cpidtp
            uinten := if r = .uinten then v else s.spr.uinten
            rptinfo := if r = .rptinfo then v else s.spr.rptinfo
            rpid := if r = .rpid then v.extractLsb' 0 16 else s.spr.rpid } } := by
  cases r <;> simp [writeSpr, State.setEnables, State.setStat, State.setSpr]
  · cases s.cfg.opcarpHardcoded <;> simp
  · cases s.cfg.cpidtpHardcoded <;> simp

end Sys2Proof.Machine
end

