-- ==== Sys2Proof/Laws/Step.lean ====
section
/-!
SUPPORT. What one step can do: the front end in each of its cases, and an inversion lemma that every invariant can start from.
-/

namespace Sys2Proof.Machine

theorem unsyncedWord_eq_false_iff (s : State) (a : Word) : unsyncedWord s a = false ↔ Synced s a := by
  have key : (∀ k < 4, (a + BitVec.ofNat 32 k).toNat ∉ s.unsynced) ↔
      a.toNat ∉ s.unsynced ∧ (a + 1).toNat ∉ s.unsynced ∧ (a + 2).toNat ∉ s.unsynced ∧ (a + 3).toNat ∉ s.unsynced := by
    constructor
    · intro h
      exact ⟨by simpa using h 0 (by omega), h 1 (by omega), h 2 (by omega), h 3 (by omega)⟩
    · rintro ⟨h0, h1, h2, h3⟩ k hk
      interval_cases k
      · simpa using h0
      · exact h1
      · exact h2
      · exact h3
  unfold unsyncedWord Synced
  rw [key]
  cases s.cfg.unifiedMemory <;> simp [List.contains_eq_mem, and_assoc]

/-- The fetched word is its four bytes, big endian (20_memory R73). -/
theorem fetchWord_eq_some_iff (s : State) (a w : Word) :
    fetchWord s a = some w ↔ ∃ b0 b1 b2 b3, fetchByte s a = some b0 ∧ fetchByte s (a + 1) = some b1 ∧
      fetchByte s (a + 2) = some b2 ∧ fetchByte s (a + 3) = some b3 ∧ w = wordOfBytes b0 b1 b2 b3 := by
  unfold fetchWord
  constructor
  · intro h
    split at h
    · rename_i b0 b1 b2 b3 h0 h1 h2 h3
      exact ⟨b0, b1, b2, b3, h0, h1, h2, h3, by simpa using h.symm⟩
    · cases h
  · rintro ⟨b0, b1, b2, b3, h0, h1, h2, h3, rfl⟩
    simp only [h0, h1, h2, h3]

/-- The front end of a core that is not halted, with an aligned `pc` and a fetchable word there. -/
theorem frontEnd_of_fetch (s : State) (w : Word) (hh : s.halted = false) (ha : s.pc.toNat % 4 = 0) (hs : Synced s s.pc)
    (hw : fetchWord s s.pc = some w) : frontEnd s = decodeStage w s := by
  unfold frontEnd
  simp [hh, misaligned_eq, ha, (unsyncedWord_eq_false_iff s s.pc).2 hs, hw]

/-- The step on a word that decodes to no instruction. -/
theorem step_of_reject (s : State) (w : Word) (r : Reject) (hh : s.halted = false) (ha : s.pc.toNat % 4 = 0)
    (hs : Synced s s.pc) (hw : fetchWord s s.pc = some w) (hd : decode s.cfg w = .error r) :
    step s = rejectedWord r w s := by
  unfold step
  rw [frontEnd_of_fetch s w hh ha hs hw]
  simp [decodeStage, hd]

/-- What a word that is no core instruction can lead to other than a stop: the CPMI slot (47_coprocessor R281). -/
theorem rejectedWord_next {r : Reject} {w : Word} {s t : State} (h : rejectedWord r w s = .next t) :
    r = .coprocessor ∧ s.stat.spcp = true ∧ CpmiEnabled s ∧ t = { s with pc := 0x00000008 } := by
  cases r <;> simp only [rejectedWord] at h
  case coprocessor =>
    unfold coprocessorWord at h
    split at h
    · cases h
    · split at h
      · cases h
      · split at h
        · rename_i h1 h2 h3
          refine ⟨rfl, by simpa using h2, (cpmiEnabled_iff s).1 h3, ?_⟩
          injection h with h
          exact h.symm
        · cases h
  all_goals cases h

/-- All that a step with a next state can be: MISADDR at the fetch, the CPMI interrupt, or an executed instruction. -/
theorem step_cases {s t : State} (h : step s = .next t) :
    s.halted = false ∧
      ((s.pc.toNat % 4 ≠ 0 ∧ t = Raised .misaddr s.pc s) ∨
        (s.stat.spcp = true ∧ CpmiEnabled s ∧ t = { s with pc := 0x00000008 }) ∨
        ∃ i, executes s i ∧ exec i s = .next t) := by
  unfold step frontEnd at h
  by_cases hh : s.halted = true
  · simp [hh] at h
  · have hh : s.halted = false := by simpa using hh
    refine ⟨hh, ?_⟩
    by_cases ha : s.pc.toNat % 4 = 0
    · right
      simp only [hh, misaligned_eq, ha, ne_eq, not_true_eq_false, decide_false, Bool.false_eq_true, if_false] at h
      by_cases hu : unsyncedWord s s.pc = true
      · simp [hu] at h
      · simp only [hu, Bool.false_eq_true, if_false] at h
        cases hw : fetchWord s s.pc with
        | none => simp [hw] at h
        | some w =>
          simp only [hw, decodeStage] at h
          cases hd : decode s.cfg w with
          | ok i =>
            simp only [hd] at h
            exact .inr ⟨i, ⟨hh, ha, w, hw, hd⟩, h⟩
          | error r =>
            simp only [hd] at h
            obtain ⟨_, h1, h2, h3⟩ := rejectedWord_next h
            exact .inl ⟨h1, h2, h3⟩
    · left
      simp only [hh, misaligned_eq, ha, ne_eq, not_false_eq_true, decide_true, Bool.false_eq_true, if_false, if_true] at h
      injection h with h
      exact ⟨ha, h.symm⟩

end Sys2Proof.Machine
end

