-- ==== Sys2Proof/Laws/Exec.lean ====
section
/-!
SUPPORT. All that an instruction with a next state can have done, said once: the invariants of the machine follow by cases on
`Did`, with no meaning unfolded.
-/

namespace Sys2Proof.Machine

/-- The instructions that write a carry or a borrow into OV, and after which ROI can be entered (10_state R42, 60_exceptions
R322). -/
abbrev WritesCarry (i : Instr) : Prop :=
  (∃ d a b, i = .add d a b) ∨ (∃ d a m, i = .addi d a m) ∨ (∃ d a b, i = .sub d a b) ∨ ∃ d a m, i = .subi d a m

/-- The effects of the instructions, by shape. -/
inductive Did (i : Instr) (s : State) : State → Prop where
  /-- Integer and Immediate: Rd, Z, OV, then the next instruction or the ROI slot. -/
  | alu (rd : RegNum) (r : Word) (ov : Bool) (next : Word) (hf : i.format = .integer ∨ i.format = .immediate)
      (hn : next = s.pc + 4 ∨ WritesCarry i ∧ next = 0x00000010 ∧ ov = true ∧ RoiEnabled s)
      (ho : (ov = s.stat.ov ∨ ov = ovOtherValue s) ∨ WritesCarry i) :
      Did i s { s with
        regs := s.regs.write s.bank rd r, stat := { s.stat with z := decide (r = 0), ov := ov }, pc := next }
  /-- lw, lh, lth, lb, ldspr, test, and lock of a locked address: Rd. -/
  | wroteReg (rd : RegNum) (v : Word) (hf : i.format = .load ∨ i.format = .system) :
      Did i s { s with regs := s.regs.write s.bank rd v, pc := s.pc + 4 }
  /-- The stores. -/
  | stored (ea v : Word) (n : Nat) (hf : i.format = .store) :
      Did i s { s with
        dmem := writeBytes s.dmem ea v n
        unsynced := if s.cfg.unifiedMemory then insertAddrs s.unsynced ea n else s.unsynced
        pc := s.pc + 4 }
  /-- Load Immediate into GPREGF or SYSREGF. -/
  | wroteFile (b : Bank) (rd : RegNum) (v : Word) (hf : i.format = .loadImmediate) :
      Did i s { s with regs := s.regs.write b rd v, pc := s.pc + 4 }
  /-- Load Immediate into GLBREGF. -/
  | wroteGlb (rd : RegNum) (v : Word)
      (hi : ∃ d m, i = .lgi d m ∨ i = .lugi d m ∨ i = .lngi d m ∨ i = .lungi d m) :
      Did i s { s with regs := s.regs.writeGlb rd v, pc := s.pc + 4 }
  /-- The branches, j and jr. -/
  | jumped (next : Word) (hf : i.format = .branch ∨ i.format = .jump) : Did i s { s with pc := next }
  /-- jal and jrl. -/
  | linked (next : Word) (hf : i.format = .jumpLink) :
      Did i s { s with regs := s.regs.write s.bank 4 (s.pc + 4), pc := next }
  /-- An exception with no other effect. -/
  | raised (e : Exn) (info : Word)
      (he : e = .misaddr ∧ (i.format = .load ∨ i.format = .store) ∨
        e = .insfpem ∧ ((∃ r a, i = .stspr r a) ∨ ∃ r a, i = .ldspr r a) ∨
        e = .invpr ∧ ((∃ n, i = .pmir n) ∨ ∃ n, i = .pmd n)) : Did i s (Raised e info s)
  /-- A rejected syscall. -/
  | rejected (n : BitVec 8) (e : Exn) (info : Word) (hi : i = .syscall n) (he : e = .invsys ∨ e = .insfpem) :
      Did i s
        (Raised e info { s with stat := { s.stat with pema := if s.cfg.hasPml then false else s.stat.pema } })
  /-- An accepted syscall. -/
  | entered (n : BitVec 8) (e : SyscallEntry) (hi : i = .syscall n) (hv : s.sysctpValid = true)
      (hl : s.cfg.syscallTable.lookup n = some e) (hp : e.minPml.toNat ≤ s.pml.toNat) : Did i s (enterSyscall e s)
  /-- sysret. -/
  | left (hi : i = .sysret) (hb : s.bank = .sys) : Did i s (leaveSyscall s)
  /-- stspr. -/
  | wroteSpr (rsa : RegNum) (a : BitVec 8) (r : Spr) (hi : i = .stspr rsa a) (ha : sprAt a = some r)
      (hp : sprWriteLevel r ≤ s.pml.toNat) : Did i s (advance (writeSpr (s.readReg rsa) s r))
  /-- sync. -/
  | synced (hi : i = .sync) : Did i s { s with
      unsynced := if s.cfg.unifiedMemory then [] else s.unsynced, pc := s.pc + 4 }
  /-- A lock that takes its address. -/
  | locked (rd rsa : RegNum) (hi : i = .lock rd rsa) :
      Did i s { s with
        locks := insertAddr (s.readReg rsa).toNat s.locks, regs := s.regs.write s.bank rd 0, pc := s.pc + 4 }
  /-- pmir and pmd where they change nothing. -/
  | advanced (hi : (∃ n, i = .pmir n) ∨ ∃ n, i = .pmd n) : Did i s (advance s)
  /-- A granted pmir. -/
  | raisedLevel (n : BitVec 8) (hi : i = .pmir n) (hc : s.cfg.hasPml = true) (h6 : n ≠ 6) (h7 : n.toNat ≤ 7)
      (hg : pmirGranted s.cfg s.pml (n.setWidth 3) = true) : Did i s (advance (s.setPml (n.setWidth 3)))
  /-- pmd. -/
  | loweredLevel (n : BitVec 8) (hi : i = .pmd n) (hc : s.cfg.hasPml = true) (h6 : n ≠ 6) (h7 : n.toNat ≤ 7)
      (hl : n.toNat ≤ s.pml.toNat) : Did i s (advance (s.setPml (n.setWidth 3)))

theorem did_arith (i : Instr) (s : State) (rd : RegNum) (r : Word) (ov : Bool)
    (hf : i.format = .integer ∨ i.format = .immediate)
    (ho : WritesCarry i) : Did i s (finishArith rd r ov s) := by
  rw [finishArith_eq]
  refine .alu rd r ov _ hf ?_ (.inr ho)
  split
  · rename_i h
    exact .inr ⟨ho, rfl, h.1, (roiEnabled_iff s).1 h.2⟩
  · exact .inl rfl

theorem did_keepOv (i : Instr) (s : State) (rd : RegNum) (r : Word) (hf : i.format = .integer ∨ i.format = .immediate) :
    Did i s (finishKeepOv rd r s) := by
  rw [finishKeepOv_eq]
  exact .alu rd r s.stat.ov _ hf (.inl rfl) (.inl (.inl rfl))

theorem did_other (i : Instr) (s : State) (rd : RegNum) (r : Word) (hf : i.format = .integer ∨ i.format = .immediate) :
    Did i s (finishOther rd r s) := by
  rw [finishOther_eq]
  exact .alu rd r _ _ hf (.inl rfl) (.inl (.inr rfl))

theorem did_load {n al : Nat} {rd : RegNum} {imm : BitVec 14} {rsa : RegNum} {s t : State} (i : Instr)
    (hf : i.format = .load) (h : load n al rd imm rsa s = .next t) : Did i s t := by
  rcases load_cases n al rd imm rsa s with ⟨_, e⟩ | ⟨_, _, e⟩ | ⟨_, _, e⟩ <;> rw [e] at h
  · injection h with h; subst h; exact .raised _ _ (.inl ⟨rfl, .inl hf⟩)
  · cases h
  · injection h with h; subst h; exact .wroteReg _ _ (.inl hf)

theorem did_store {n al : Nat} {rsb : RegNum} {imm : BitVec 14} {rsa : RegNum} {s t : State} (i : Instr)
    (hf : i.format = .store) (h : store n al rsb imm rsa s = .next t) : Did i s t := by
  rcases store_cases n al rsb imm rsa s with ⟨_, e⟩ | ⟨_, _, e⟩ | ⟨_, _, e⟩ <;> rw [e] at h
  · injection h with h; subst h; exact .raised _ _ (.inl ⟨rfl, .inr hf⟩)
  · cases h
  · injection h with h; subst h; exact .stored _ _ _ hf

theorem did_syscall {n : BitVec 8} {s t : State} (h : execSyscall n s = .next t) : Did (.syscall n) s t := by
  unfold execSyscall at h
  split at h
  · rename_i hv
    split at h
    · rw [rejectSyscall_eq] at h
      injection h with h; subst h
      exact .rejected n _ _ rfl (.inl rfl)
    · rename_i e he
      split at h
      · rw [rejectSyscall_eq] at h
        injection h with h; subst h
        exact .rejected n _ _ rfl (.inr rfl)
      · rename_i hp
        injection h with h; subst h
        exact .entered n e rfl hv he (by omega)
  · rw [rejectSyscall_eq] at h
    injection h with h; subst h
    exact .rejected n _ _ rfl (.inl rfl)

theorem did_sysret {s t : State} (h : execSysret s = .next t) : Did .sysret s t := by
  unfold execSysret at h
  split at h
  · rename_i hb
    injection h with h; subst h
    exact .left rfl hb
  · cases h

theorem did_stspr {rsa : RegNum} {a : BitVec 8} {s t : State} (h : execStspr rsa a s = .next t) :
    Did (.stspr rsa a) s t := by
  unfold execStspr at h
  split at h
  · cases h
  · rename_i r hr
    split at h
    · injection h with h; subst h
      exact .raised _ _ (.inr (.inl ⟨rfl, .inl ⟨rsa, a, rfl⟩⟩))
    · rename_i hp
      split at h
      · cases h
      · injection h with h; subst h
        exact .wroteSpr rsa a r rfl hr (by omega)

theorem did_ldspr {rd : RegNum} {a : BitVec 8} {s t : State} (h : execLdspr rd a s = .next t) :
    Did (.ldspr rd a) s t := by
  unfold execLdspr at h
  split at h
  · cases h
  · split at h
    · injection h with h; subst h
      exact .raised _ _ (.inr (.inl ⟨rfl, .inr ⟨rd, a, rfl⟩⟩))
    · injection h with h; subst h
      exact .wroteReg rd _ (.inr rfl)

theorem did_pmir {n : BitVec 8} {s t : State} (h : execPmir n s = .next t) : Did (.pmir n) s t := by
  unfold execPmir invalidLevel notALevel at h
  split at h
  · injection h with h; subst h; exact .advanced (.inl ⟨n, rfl⟩)
  · rename_i hc
    split at h
    · injection h with h; subst h; exact .raised _ _ (.inr (.inr ⟨rfl, .inl ⟨n, rfl⟩⟩))
    · rename_i hn
      simp only [Bool.or_eq_true, decide_eq_true_eq, beq_iff_eq, not_or] at hn
      split at h
      · injection h with h; subst h; exact .advanced (.inl ⟨n, rfl⟩)
      · split at h
        · injection h with h; subst h; exact .raised _ _ (.inr (.inr ⟨rfl, .inl ⟨n, rfl⟩⟩))
        · split at h
          · rename_i hg
            injection h with h; subst h
            exact .raisedLevel n rfl (by simpa using hc) hn.2 (by omega) hg
          · injection h with h; subst h; exact .raised _ _ (.inr (.inr ⟨rfl, .inl ⟨n, rfl⟩⟩))

theorem did_pmd {n : BitVec 8} {s t : State} (h : execPmd n s = .next t) : Did (.pmd n) s t := by
  unfold execPmd invalidLevel notALevel at h
  split at h
  · injection h with h; subst h; exact .advanced (.inr ⟨n, rfl⟩)
  · rename_i hc
    split at h
    · injection h with h; subst h; exact .raised _ _ (.inr (.inr ⟨rfl, .inr ⟨n, rfl⟩⟩))
    · rename_i hn
      simp only [Bool.or_eq_true, decide_eq_true_eq, beq_iff_eq, not_or] at hn
      split at h
      · rename_i hl
        injection h with h; subst h
        exact .loweredLevel n rfl (by simpa using hc) hn.2 (by omega) hl
      · injection h with h; subst h; exact .raised _ _ (.inr (.inr ⟨rfl, .inr ⟨n, rfl⟩⟩))

theorem did_lock {rd rsa : RegNum} {s t : State} (h : execLock rd rsa s = .next t) : Did (.lock rd rsa) s t := by
  unfold execLock at h
  split at h
  · injection h with h; subst h; exact .wroteReg rd _ (.inr rfl)
  · injection h with h; subst h; exact .locked rd rsa rfl

theorem did_test {rd rsa : RegNum} {s t : State} (h : execTest rd rsa s = .next t) : Did (.test rd rsa) s t := by
  unfold execTest at h
  split at h <;> (injection h with h; subst h; exact .wroteReg rd _ (.inr rfl))

theorem did_sync {s t : State} (h : execSync s = .next t) : Did .sync s t := by
  unfold execSync at h
  injection h with h; subst h
  have : advance (syncFetch s) = { s with
      unsynced := if s.cfg.unifiedMemory then [] else s.unsynced, pc := s.pc + 4 } := by
    unfold syncFetch advance State.setPc State.setUnsynced
    split <;> rfl
  rw [this]
  exact .synced rfl

/-- All that an instruction with a next state can have done. -/
theorem exec_did {i : Instr} {s t : State} (h : exec i s = .next t) : Did i s t := by
  cases i
  case lw => exact did_load _ rfl h
  case lh => exact did_load _ rfl h
  case lth => exact did_load _ rfl h
  case lb => exact did_load _ rfl h
  case sw => exact did_store _ rfl h
  case sh => exact did_store _ rfl h
  case sth => exact did_store _ rfl h
  case sb => exact did_store _ rfl h
  case syscall => exact did_syscall h
  case sysret => exact did_sysret h
  case stspr => exact did_stspr h
  case ldspr => exact did_ldspr h
  case sync => exact did_sync h
  case lock => exact did_lock h
  case test => exact did_test h
  case pmir => exact did_pmir h
  case pmd => exact did_pmd h
  all_goals (injection h with h; subst h)
  case add => exact did_arith _ _ _ _ _ (.inl rfl) (.inl ⟨_, _, _, rfl⟩)
  case sub => exact did_arith _ _ _ _ _ (.inl rfl) (.inr (.inr (.inl ⟨_, _, _, rfl⟩)))
  case addi => exact did_arith _ _ _ _ _ (.inr rfl) (.inr (.inl ⟨_, _, _, rfl⟩))
  case subi => exact did_arith _ _ _ _ _ (.inr rfl) (.inr (.inr (.inr ⟨_, _, _, rfl⟩)))
  case addu => exact did_keepOv _ _ _ _ (.inl rfl)
  case subu => exact did_keepOv _ _ _ _ (.inl rfl)
  case addui => exact did_keepOv _ _ _ _ (.inr rfl)
  case subui => exact did_keepOv _ _ _ _ (.inr rfl)
  case not => exact did_other _ _ _ _ (.inl rfl)
  case and => exact did_other _ _ _ _ (.inl rfl)
  case or => exact did_other _ _ _ _ (.inl rfl)
  case xor => exact did_other _ _ _ _ (.inl rfl)
  case sal => exact did_other _ _ _ _ (.inl rfl)
  case sar => exact did_other _ _ _ _ (.inl rfl)
  case sll => exact did_other _ _ _ _ (.inl rfl)
  case slr => exact did_other _ _ _ _ (.inl rfl)
  case comp => exact did_other _ _ _ _ (.inl rfl)
  case noti => exact did_other _ _ _ _ (.inr rfl)
  case andi => exact did_other _ _ _ _ (.inr rfl)
  case ori => exact did_other _ _ _ _ (.inr rfl)
  case xori => exact did_other _ _ _ _ (.inr rfl)
  case sali => exact did_other _ _ _ _ (.inr rfl)
  case sari => exact did_other _ _ _ _ (.inr rfl)
  case slli => exact did_other _ _ _ _ (.inr rfl)
  case slri => exact did_other _ _ _ _ (.inr rfl)
  case compi => exact did_other _ _ _ _ (.inr rfl)
  case li => exact .wroteFile .gp _ _ rfl
  case lui => exact .wroteFile .gp _ _ rfl
  case lni => exact .wroteFile .gp _ _ rfl
  case luni => exact .wroteFile .gp _ _ rfl
  case lsi => exact .wroteFile .sys _ _ rfl
  case lusi => exact .wroteFile .sys _ _ rfl
  case lnsi => exact .wroteFile .sys _ _ rfl
  case lunsi => exact .wroteFile .sys _ _ rfl
  case lgi => exact .wroteGlb _ _ ⟨_, _, .inl rfl⟩
  case lugi => exact .wroteGlb _ _ ⟨_, _, .inr (.inl rfl)⟩
  case lngi => exact .wroteGlb _ _ ⟨_, _, .inr (.inr (.inl rfl))⟩
  case lungi => exact .wroteGlb _ _ ⟨_, _, .inr (.inr (.inr rfl))⟩
  case beq => rw [branch_eq]; exact .jumped _ (.inl rfl)
  case bne => rw [branch_eq]; exact .jumped _ (.inl rfl)
  case bgt => rw [branch_eq]; exact .jumped _ (.inl rfl)
  case blt => rw [branch_eq]; exact .jumped _ (.inl rfl)
  case j => exact .jumped _ (.inr rfl)
  case jr => exact .jumped _ (.inr rfl)
  case jal => exact .linked _ rfl
  case jrl => exact .linked _ rfl

end Sys2Proof.Machine
end

