-- ==== Sys2Proof/Laws/Values.lean ====
section
/-!
SUPPORT. The values of the operations in the plain arithmetic of the rules (Safety), one lemma per operation.
-/

namespace Sys2Proof.Machine

/-- A difference modulo 2^32 is the difference of the integers (40_integer R143). -/
theorem sub_eq_ofInt (a b : Word) : a - b = BitVec.ofInt 32 ((a.toNat : Int) - b.toNat) := by
  apply BitVec.eq_of_toNat_eq
  rw [BitVec.toNat_sub, BitVec.toNat_ofInt]
  have := a.isLt
  have := b.isLt
  omega

theorem signExtend_eq_ofInt (imm : BitVec 16) : imm.signExtend 32 = BitVec.ofInt 32 imm.toInt := rfl

theorem setWidth_eq_ofNat {w : Nat} (imm : BitVec w) : imm.setWidth 32 = BitVec.ofNat 32 imm.toNat := by
  apply BitVec.eq_of_toNat_eq
  simp [BitVec.toNat_setWidth]

/-- 30_encoding R113. -/
theorem imm12Arith_eq (s : State) (imm : BitVec 12) : imm12Arith s imm = imm12Value s imm := by
  unfold imm12Arith extend imm12Value
  cases s.cfg.imm12Ext
  · exact setWidth_eq_ofNat imm
  · rfl

/-- 42_load_store R180. -/
theorem effectiveAddr_eq (s : State) (rsa : RegNum) (imm : BitVec 14) :
    effectiveAddr s rsa imm = s.readReg rsa + imm14Value s imm := by
  unfold effectiveAddr imm14Value extend
  cases s.cfg.imm14Ext
  · exact congrArg _ (setWidth_eq_ofNat imm)
  · rfl

/-- 40_integer R150. -/
theorem shiftLeft_eq (s : State) (a : Word) (n : Nat) : shiftLeft s a n = leftShiftValue s a n := by
  unfold shiftLeft leftShiftValue shiftAmount shiftBy
  have e : ∀ k, a <<< k = BitVec.ofNat 32 (a.toNat * 2 ^ k) := fun k => by
    apply BitVec.eq_of_toNat_eq
    simp [BitVec.toNat_shiftLeft, Nat.shiftLeft_eq]
  by_cases h : n < 32
  · simp [h, Nat.le_of_lt_succ h, e n]
  · simp only [h, show ¬n ≤ 31 by omega, if_false]
    cases s.cfg.shiftOver
    · rfl
    · exact e _

/-- 40_integer R153. -/
theorem shiftRightLogic_eq (s : State) (a : Word) (n : Nat) : shiftRightLogic s a n = logicShiftValue s a n := by
  unfold shiftRightLogic logicShiftValue shiftAmount shiftBy
  have e : ∀ k, a >>> k = BitVec.ofNat 32 (a.toNat / 2 ^ k) := fun k => by
    apply BitVec.eq_of_toNat_eq
    have := Nat.div_le_self a.toNat (2 ^ k)
    have := a.isLt
    simp only [BitVec.toNat_ushiftRight, Nat.shiftRight_eq_div_pow, BitVec.toNat_ofNat]
    rw [Nat.mod_eq_of_lt (by omega)]
  by_cases h : n < 32
  · simp [h, Nat.le_of_lt_succ h, e n]
  · simp only [h, show ¬n ≤ 31 by omega, if_false]
    cases s.cfg.shiftOver
    · rfl
    · exact e _

/-- 40_integer R151. -/
theorem shiftRightArith_eq (s : State) (a : Word) (n : Nat) : shiftRightArith s a n = arithShiftValue s a n := by
  unfold shiftRightArith arithShiftValue shiftAmount shiftBy
  have e : ∀ k, a.sshiftRight k = BitVec.ofInt 32 (a.toInt / 2 ^ k) := fun k => by
    unfold BitVec.sshiftRight
    rw [Int.shiftRight_eq_div_pow]
    simp
  by_cases h : n < 32
  · simp only [h, Nat.le_of_lt_succ h, e n, if_true]
  · simp only [h, show ¬n ≤ 31 by omega, if_false]
    cases s.cfg.shiftOver
    · have : a.getLsbD 31 = a.msb := by simp [BitVec.msb_eq_getLsbD_last]
      simp only [this, BitVec.msb_eq_toInt]
      simp
    · exact e _

/-- The comparison in the order `CMP_SIGNED` selects (40_integer R154). -/
theorem greater_iff (s : State) (a b : Word) : greater s a b = true ↔ lessThan s b a := by
  unfold greater lessThan
  cases s.cfg.cmpOrder <;> simp [BitVec.slt, BitVec.ult]

theorem lessThan_irrefl (s : State) (a : Word) : ¬lessThan s a a := by
  unfold lessThan
  cases s.cfg.cmpOrder <;> simp

theorem lessThan_asymm (s : State) (a b : Word) (h : lessThan s a b) : ¬lessThan s b a := by
  unfold lessThan at *
  cases hc : s.cfg.cmpOrder <;> simp only [hc] at * <;> omega

/-- 43_load_immediate R201. -/
theorem upperValue_eq (s : State) (imm : BitVec 16) (old : Word) : upperValue s imm old = upperLoadValue s imm old := by
  unfold upperValue upperLoadValue
  have hi := imm.isLt
  cases s.cfg.liUpperLow
  · apply BitVec.eq_of_toNat_eq
    simp only [BitVec.toNat_append, BitVec.toNat_ofNat]
    rw [Nat.shiftLeft_eq]
    simp
    omega
  · apply BitVec.eq_of_toNat_eq
    simp only [BitVec.toNat_append, BitVec.toNat_ofNat, BitVec.extractLsb'_toNat, Nat.shiftRight_zero]
    have h2 : old.toNat % 2 ^ 16 < 2 ^ 16 := Nat.mod_lt _ (by omega)
    rw [← Nat.shiftLeft_add_eq_or_of_lt h2, Nat.shiftLeft_eq]
    omega

/-- STAT as software reads it (10_state R40). -/
theorem statBits_toNat (s : State) : (statBits s).toNat = 128 * s.stat.z.toNat + 64 * s.stat.ov.toNat +
    32 * s.pema.toNat + 4 * s.pml.toNat + 2 * s.stat.gine.toNat + s.stat.spcp.toNat := by
  unfold statBits
  generalize s.pema = p
  generalize s.pml = q
  obtain ⟨z, ov, _, _, g, sp⟩ := s.stat
  simp only
  revert q z ov p g sp
  decide

theorem lockErr_ne_zero (a : Word) : lockErr a ≠ 0 := by
  unfold lockErr
  intro h
  have h := congrArg BitVec.toNat h
  have := (Config.freeLockErr a).isLt
  rw [BitVec.toNat_ofNat, show (0 : Word).toNat = 0 from rfl] at h
  omega

end Sys2Proof.Machine
end

