-- ==== Sys2Proof/Laws/Answers.lean ====
section
/-!
SUPPORT. The shapes of answers (Safety): from the state an instruction ends in to the shape; and from a format's decoder to
`DecodesTo`.
-/

namespace Sys2Proof.Machine

/-! ## Completing -/

theorem aluAnswer_of_exec (i : Instr) (rd : RegNum) (r : Word) (ov : Bool) (next : Word) (s : State)
    (h : exec i s = .next { s with
      regs := s.regs.write s.bank rd r, stat := { s.stat with z := decide (r = 0), ov := ov }, pc := next }) :
    AluAnswer i rd r ov next s :=
  ⟨_, h, wroteReg_of_regs _ _ _ _ _ rfl, rfl, rfl, sameRest_update ..⟩

theorem regAnswer_of_exec (i : Instr) (rd : RegNum) (v : Word) (s : State)
    (h : exec i s = .next { s with regs := s.regs.write s.bank rd v, pc := s.pc + 4 }) : RegAnswer i rd v s :=
  ⟨_, h, wroteReg_of_regs _ _ _ _ _ rfl, rfl, rfl, sameRest_update ..⟩

theorem fileAnswer_of_exec (i : Instr) (b : Bank) (rd : RegNum) (v : Word) (s : State)
    (h : exec i s = .next (advance (s.setRegs (s.regs.write b rd v)))) : FileAnswer i b rd v s :=
  ⟨_, h, wroteReg_of_regs _ _ _ _ _ rfl, rfl, rfl, sameRest_update s _ _ s.stat⟩

theorem glbAnswer_of_exec (i : Instr) (rd : RegNum) (v : Word) (s : State)
    (h : exec i s = .next (advance (s.writeGlb rd v))) : GlbAnswer i rd v s :=
  ⟨_, h, wroteGlb_of_regs _ _ _ _ rfl, rfl, rfl, sameRest_update s _ _ s.stat⟩

theorem jumpAnswer_of_branch (i : Instr) (c : Bool) (imm : BitVec 14) (s : State) (t : Word)
    (hi : exec i s = .next (branch c imm s)) (ht : (if c then s.pc + imm.signExtend 32 else s.pc + 4) = t) :
    JumpAnswer i t s := by
  subst ht
  exact hi.trans (by rw [branch_eq])

/-- A store that completes (42_load_store R186 to R189). -/
theorem storeAnswer_of_exec (s : State) (i : Instr) (ea v : Word) (n : Nat) (hn : n ≤ 4) (bytes : List Byte)
    (hl : bytes.length = n) (hb : ∀ k (h : k < bytes.length), bytes[k] = v.extractLsb' (8 * (n - 1 - k)) 8)
    (h : exec i s = .next (advance (memWrite s ea v n))) : StoreAnswer i ea bytes s := by
  refine ⟨_, h, ?_, ?_, ?_, ?_, ?_, ?_, ?_, ?_⟩
  · intro k b hk
    obtain ⟨hk', rfl⟩ := List.getElem?_eq_some_iff.1 hk
    rw [hb k hk']
    exact readByte_memWrite_in s ea v n k (by omega) (by omega)
  · intro a ha
    rw [hl] at ha
    exact ⟨readByte_memWrite_out s ea v a n ha, fetchByte_memWrite_out s ea v a n ha⟩
  · intro hu
    refine ⟨fun a => fetchByte_memWrite_separate s ea v a n hu, ?_⟩
    show (memWrite s ea v n).unsynced = _
    rw [memWrite_unsynced, hu]
    rfl
  · intro hu a
    show a.toNat ∈ (memWrite s ea v n).unsynced ↔ _
    rw [memWrite_unsynced, hu, if_pos rfl, mem_insertAddrs, hl]
    exact or_congr Iff.rfl (exists_congr fun k => and_congr Iff.rfl BitVec.toNat_inj)
  · rw [memWrite_eq]; exact fun r => ⟨rfl, rfl, rfl⟩
  · rw [memWrite_eq]; rfl
  · rw [memWrite_eq]; rfl
  · rw [memWrite_eq]; exact ⟨⟨rfl, rfl, rfl, rfl, rfl, rfl, rfl, rfl⟩, rfl, rfl⟩

/-! ## Loads and stores by case -/

theorem load_completes {n al : Nat} {rd : RegNum} {imm : BitVec 14} {rsa : RegNum} {s : State} (i : Instr)
    (hi : exec i s = load n al rd imm rsa s) (h1 : (effectiveAddr s rsa imm).toNat % al = 0)
    (h2 : Backed s (effectiveAddr s rsa imm) n) : RegAnswer i rd (memRead s (effectiveAddr s rsa imm) n) s := by
  rcases load_cases n al rd imm rsa s with ⟨h, _⟩ | ⟨_, h, _⟩ | ⟨_, _, h⟩
  · exact absurd h1 h
  · exact absurd h2 h
  · exact regAnswer_of_exec _ _ _ _ (hi.trans h)

theorem load_misaligned {n al : Nat} {rd : RegNum} {imm : BitVec 14} {rsa : RegNum} {s : State} (i : Instr)
    (hi : exec i s = load n al rd imm rsa s) (h1 : (effectiveAddr s rsa imm).toNat % al ≠ 0) :
    exec i s = .next (Raised .misaddr (effectiveAddr s rsa imm) s) := by
  rcases load_cases n al rd imm rsa s with ⟨_, h⟩ | ⟨h, _, _⟩ | ⟨h, _, _⟩
  · exact hi.trans h
  · exact absurd h h1
  · exact absurd h h1

theorem load_unbacked {n al : Nat} {rd : RegNum} {imm : BitVec 14} {rsa : RegNum} {s : State} (i : Instr)
    (hi : exec i s = load n al rd imm rsa s) (h1 : (effectiveAddr s rsa imm).toNat % al = 0)
    (h2 : ¬Backed s (effectiveAddr s rsa imm) n) : exec i s = .fault (.unbackedAccess (effectiveAddr s rsa imm)) := by
  rcases load_cases n al rd imm rsa s with ⟨h, _⟩ | ⟨_, _, h⟩ | ⟨_, h, _⟩
  · exact absurd h1 h
  · exact hi.trans h
  · exact absurd h h2

theorem store_completes {n al : Nat} {rsb : RegNum} {imm : BitVec 14} {rsa : RegNum} {s : State} (i : Instr)
    (hi : exec i s = store n al rsb imm rsa s) (h1 : (effectiveAddr s rsa imm).toNat % al = 0)
    (h2 : Backed s (effectiveAddr s rsa imm) n) :
    exec i s = .next (advance (memWrite s (effectiveAddr s rsa imm) (s.readReg rsb) n)) := by
  rcases store_cases n al rsb imm rsa s with ⟨h, _⟩ | ⟨_, h, _⟩ | ⟨_, _, h⟩
  · exact absurd h1 h
  · exact absurd h2 h
  · rw [memWrite_eq]
    exact hi.trans h

theorem store_misaligned {n al : Nat} {rsb : RegNum} {imm : BitVec 14} {rsa : RegNum} {s : State} (i : Instr)
    (hi : exec i s = store n al rsb imm rsa s) (h1 : (effectiveAddr s rsa imm).toNat % al ≠ 0) :
    exec i s = .next (Raised .misaddr (effectiveAddr s rsa imm) s) := by
  rcases store_cases n al rsb imm rsa s with ⟨_, h⟩ | ⟨h, _, _⟩ | ⟨h, _, _⟩
  · exact hi.trans h
  · exact absurd h h1
  · exact absurd h h1

theorem store_unbacked {n al : Nat} {rsb : RegNum} {imm : BitVec 14} {rsa : RegNum} {s : State} (i : Instr)
    (hi : exec i s = store n al rsb imm rsa s) (h1 : (effectiveAddr s rsa imm).toNat % al = 0)
    (h2 : ¬Backed s (effectiveAddr s rsa imm) n) : exec i s = .fault (.unbackedAccess (effectiveAddr s rsa imm)) := by
  rcases store_cases n al rsb imm rsa s with ⟨h, _⟩ | ⟨_, _, h⟩ | ⟨_, h, _⟩
  · exact absurd h1 h
  · exact hi.trans h
  · exact absurd h h2

/-! ## The System Registers by case -/

/-- ldspr of a register whose level is reached (45_system R244). -/
theorem ldspr_completes (rd : RegNum) (a : BitVec 8) (r : Spr) (s : State) (h : sprAt a = some r)
    (hp : sprReadLevel r ≤ s.pml.toNat) : RegAnswer (.ldspr rd a) rd (readSpr s r) s := by
  refine regAnswer_of_exec _ _ _ _ ?_
  show execLdspr rd a s = _
  unfold execLdspr
  simp only [h, show ¬s.pml.toNat < sprReadLevel r by omega, if_false]
  rfl

/-- stspr of a register whose level is reached (45_system R243). -/
theorem stspr_completes (rsa : RegNum) (a : BitVec 8) (r : Spr) (s : State) (h : sprAt a = some r)
    (hp : sprWriteLevel r ≤ s.pml.toNat) (hr : r ≠ .stat ∨ (s.readReg rsa).extractLsb' 2 6 = 0) :
    exec (.stspr rsa a) s = .next (advance (writeSpr (s.readReg rsa) s r)) := by
  show execStspr rsa a s = _
  unfold execStspr
  have : ¬(r = .stat ∧ (s.readReg rsa).extractLsb' 2 6 ≠ 0) := by tauto
  simp only [h, show ¬s.pml.toNat < sprWriteLevel r by omega, if_false, this]

/-! ## Decoding by format, under the spec's opcode map -/

theorem decodesTo_integer (rd rsa rsb : RegNum) (shft : BitVec 7) (aluop : BitVec 4) (i : Instr)
    (h : decodeInteger (0b000001#6 ++ rd ++ rsa ++ rsb ++ shft ++ aluop) = .ok i) :
    DecodesTo (0b000001#6 ++ rd ++ rsa ++ rsb ++ shft ++ aluop) i := by
  intro c h1 h2
  refine (decode_of_opcodeField c .integer _ ?_).trans h
  rw [opcodeField_integer]
  simp [opcode, h1]

theorem decodesTo_immediate (rd rsa : RegNum) (imm : BitVec 12) (aluop : BitVec 4) (i : Instr)
    (h : decodeImmediate (0b000011#6 ++ rd ++ rsa ++ imm ++ aluop) = .ok i) :
    DecodesTo (0b000011#6 ++ rd ++ rsa ++ imm ++ aluop) i := by
  intro c h1 h2
  refine (decode_of_opcodeField c .immediate _ ?_).trans h
  rw [opcodeField_immediate]
  simp [opcode, h1]

theorem decodesTo_load (rd rsa : RegNum) (funct : BitVec 2) (imm : BitVec 14) (i : Instr)
    (h : decodeLoad (0b010010#6 ++ rd ++ rsa ++ funct ++ imm) = .ok i) :
    DecodesTo (0b010010#6 ++ rd ++ rsa ++ funct ++ imm) i := by
  intro c h1 h2
  refine (decode_of_opcodeField c .load _ ?_).trans h
  rw [opcodeField_load]
  simp [opcode, h1]

theorem decodesTo_store (funct : BitVec 2) (hi : BitVec 3) (rsa rsb : RegNum) (lo : BitVec 11) (i : Instr)
    (h : decodeStore (0b011010#6 ++ funct ++ hi ++ rsa ++ rsb ++ lo) = .ok i) :
    DecodesTo (0b011010#6 ++ funct ++ hi ++ rsa ++ rsb ++ lo) i := by
  intro c h1 h2
  refine (decode_of_opcodeField c .store _ ?_).trans h
  rw [opcodeField_store]
  simp [opcode, h1]

theorem decodesTo_loadImmediate (rd dsel : RegNum) (imm : BitVec 16) (i : Instr)
    (h : decodeLoadImmediate (0b000010#6 ++ rd ++ dsel ++ imm) = .ok i) :
    DecodesTo (0b000010#6 ++ rd ++ dsel ++ imm) i := by
  intro c h1 h2
  refine (decode_of_opcodeField c .loadImmediate _ ?_).trans h
  rw [opcodeField_loadImmediate]
  simp [opcode, h1]

theorem decodesTo_branch (hi : BitVec 5) (rsa rsb : RegNum) (lo : BitVec 9) (funct : BitVec 2) (i : Instr)
    (h : decodeBranch (0b000101#6 ++ hi ++ rsa ++ rsb ++ lo ++ funct) = .ok i) :
    DecodesTo (0b000101#6 ++ hi ++ rsa ++ rsb ++ lo ++ funct) i := by
  intro c h1 h2
  refine (decode_of_opcodeField c .branch _ ?_).trans h
  rw [opcodeField_branch]
  simp [opcode, h1]

theorem decodesTo_jump (hi : BitVec 5) (rsa : RegNum) (lo : BitVec 16) (i : Instr)
    (h : decodeJump (0b000110#6 ++ hi ++ rsa ++ lo) = .ok i) : DecodesTo (0b000110#6 ++ hi ++ rsa ++ lo) i := by
  intro c h1 h2
  refine (decode_of_opcodeField c .jump _ ?_).trans h
  rw [opcodeField_jump]
  simp [opcode, h1]

theorem decodesTo_jumpLink (hi : BitVec 5) (rsa : RegNum) (lo : BitVec 16) (i : Instr)
    (h : decodeJumpLink (0b000111#6 ++ hi ++ rsa ++ lo) = .ok i) : DecodesTo (0b000111#6 ++ hi ++ rsa ++ lo) i := by
  intro c h1 h2
  refine (decode_of_opcodeField c .jumpLink _ ?_).trans h
  rw [opcodeField_jump]
  simp [opcode, h1]

theorem decodesTo_system (rd rsa : RegNum) (funct imm : BitVec 8) (i : Instr)
    (h : decodeSystem (0b001000#6 ++ rd ++ rsa ++ funct ++ imm) = .ok i) :
    DecodesTo (0b001000#6 ++ rd ++ rsa ++ funct ++ imm) i := by
  intro c h1 h2
  refine (decode_of_opcodeField c .system _ ?_).trans h
  rw [opcodeField_system]
  simp [opcode, h1, h2]

/-- The same where ins[25:16] is ignored as one field. -/
theorem decodesTo_system_ignoring (junk : BitVec 10) (funct imm : BitVec 8) (i : Instr)
    (h : ∀ rd rsa : RegNum, decodeSystem (0b001000#6 ++ rd ++ rsa ++ funct ++ imm) = .ok i) :
    DecodesTo (0b001000#6 ++ junk ++ funct ++ imm) i := by
  intro c h1 h2
  have e : (0b001000#6 ++ junk ++ funct ++ imm : BitVec 32) =
      0b001000#6 ++ junk.extractLsb' 5 5 ++ junk.extractLsb' 0 5 ++ funct ++ imm := by
    apply BitVec.eq_of_getLsbD_eq
    intro i hi
    simp only [BitVec.getLsbD_append, BitVec.getLsbD_extractLsb']
    interval_cases i <;> simp
  exact (congrArg (decode c) e).trans (decodesTo_system _ _ funct imm i (h _ _) c h1 h2)

/-- The opcodes of the spec's map: the upper half is co-processor words; of the lower half, those without a format, and the
four formats with reserved encodings (30_encoding R102, R122). -/
theorem opcodes_of_s83 (c : Config) (h : c.opmap = .s83) (h2 : c.opcSys = .b001000) : ∀ op : BitVec 6,
    (32 ≤ op.toNat → isCoprocessorOpcode c op = true) ∧
    (op.toNat < 32 → isCoprocessorOpcode c op = false ∧
      (op.toNat ∉ [0x01, 0x02, 0x03, 0x05, 0x06, 0x07, 0x08, 0x12, 0x1a] → formatOf c op = none) ∧
      (op.toNat = 0x01 → formatOf c op = some .integer) ∧ (op.toNat = 0x03 → formatOf c op = some .immediate) ∧
      (op.toNat = 0x02 → formatOf c op = some .loadImmediate) ∧ (op.toNat = 0x08 → formatOf c op = some .system)) := by
  unfold isCoprocessorOpcode formatOf opcode
  rw [h, h2]
  simp only
  decide

end Sys2Proof.Machine
end

