-- ==== Sys2Proof/Laws/PerInstr.lean ====
section
/-!
SUPPORT. Statements about every instruction as syntax, made one constructor at a time: the opcode that the encoder writes is the
opcode of the instruction's format (30_encoding R102, R103, R121).
-/

namespace Sys2Proof.Laws

/-- The encoded word carries the opcode of the instruction's format, under every configuration. -/
def OpcodeField.Statement (i : Instr) : Prop := ∀ c : Config, opcodeField (encode c i) = opcode c i.format

theorem OpcodeField.add (rd : RegNum) (rsa : RegNum) (rsb : RegNum) : OpcodeField.Statement (.add rd rsa rsb) :=
  fun _ => opcodeField_integer ..

theorem OpcodeField.sub (rd : RegNum) (rsa : RegNum) (rsb : RegNum) : OpcodeField.Statement (.sub rd rsa rsb) :=
  fun _ => opcodeField_integer ..

theorem OpcodeField.addu (rd : RegNum) (rsa : RegNum) (rsb : RegNum) : OpcodeField.Statement (.addu rd rsa rsb) :=
  fun _ => opcodeField_integer ..

theorem OpcodeField.subu (rd : RegNum) (rsa : RegNum) (rsb : RegNum) : OpcodeField.Statement (.subu rd rsa rsb) :=
  fun _ => opcodeField_integer ..

theorem OpcodeField.not (rd : RegNum) (rsa : RegNum) : OpcodeField.Statement (.not rd rsa) :=
  fun _ => opcodeField_integer ..

theorem OpcodeField.and (rd : RegNum) (rsa : RegNum) (rsb : RegNum) : OpcodeField.Statement (.and rd rsa rsb) :=
  fun _ => opcodeField_integer ..

theorem OpcodeField.or (rd : RegNum) (rsa : RegNum) (rsb : RegNum) : OpcodeField.Statement (.or rd rsa rsb) :=
  fun _ => opcodeField_integer ..

theorem OpcodeField.xor (rd : RegNum) (rsa : RegNum) (rsb : RegNum) : OpcodeField.Statement (.xor rd rsa rsb) :=
  fun _ => opcodeField_integer ..

theorem OpcodeField.sal (rd : RegNum) (rsa : RegNum) (rsb : RegNum) : OpcodeField.Statement (.sal rd rsa rsb) :=
  fun _ => opcodeField_integer ..

theorem OpcodeField.sar (rd : RegNum) (rsa : RegNum) (rsb : RegNum) : OpcodeField.Statement (.sar rd rsa rsb) :=
  fun _ => opcodeField_integer ..

theorem OpcodeField.sll (rd : RegNum) (rsa : RegNum) (rsb : RegNum) : OpcodeField.Statement (.sll rd rsa rsb) :=
  fun _ => opcodeField_integer ..

theorem OpcodeField.slr (rd : RegNum) (rsa : RegNum) (rsb : RegNum) : OpcodeField.Statement (.slr rd rsa rsb) :=
  fun _ => opcodeField_integer ..

theorem OpcodeField.comp (rd : RegNum) (rsa : RegNum) (rsb : RegNum) : OpcodeField.Statement (.comp rd rsa rsb) :=
  fun _ => opcodeField_integer ..

theorem OpcodeField.addi (rd : RegNum) (rsa : RegNum) (imm : BitVec 12) : OpcodeField.Statement (.addi rd rsa imm) :=
  fun _ => opcodeField_immediate ..

theorem OpcodeField.subi (rd : RegNum) (rsa : RegNum) (imm : BitVec 12) : OpcodeField.Statement (.subi rd rsa imm) :=
  fun _ => opcodeField_immediate ..

theorem OpcodeField.addui (rd : RegNum) (rsa : RegNum) (imm : BitVec 12) : OpcodeField.Statement (.addui rd rsa imm) :=
  fun _ => opcodeField_immediate ..

theorem OpcodeField.subui (rd : RegNum) (rsa : RegNum) (imm : BitVec 12) : OpcodeField.Statement (.subui rd rsa imm) :=
  fun _ => opcodeField_immediate ..

theorem OpcodeField.noti (rd : RegNum) (imm : BitVec 12) : OpcodeField.Statement (.noti rd imm) :=
  fun _ => opcodeField_immediate ..

theorem OpcodeField.andi (rd : RegNum) (rsa : RegNum) (imm : BitVec 12) : OpcodeField.Statement (.andi rd rsa imm) :=
  fun _ => opcodeField_immediate ..

theorem OpcodeField.ori (rd : RegNum) (rsa : RegNum) (imm : BitVec 12) : OpcodeField.Statement (.ori rd rsa imm) :=
  fun _ => opcodeField_immediate ..

theorem OpcodeField.xori (rd : RegNum) (rsa : RegNum) (imm : BitVec 12) : OpcodeField.Statement (.xori rd rsa imm) :=
  fun _ => opcodeField_immediate ..

theorem OpcodeField.sali (rd : RegNum) (rsa : RegNum) (imm : BitVec 12) : OpcodeField.Statement (.sali rd rsa imm) :=
  fun _ => opcodeField_immediate ..

theorem OpcodeField.sari (rd : RegNum) (rsa : RegNum) (imm : BitVec 12) : OpcodeField.Statement (.sari rd rsa imm) :=
  fun _ => opcodeField_immediate ..

theorem OpcodeField.slli (rd : RegNum) (rsa : RegNum) (imm : BitVec 12) : OpcodeField.Statement (.slli rd rsa imm) :=
  fun _ => opcodeField_immediate ..

theorem OpcodeField.slri (rd : RegNum) (rsa : RegNum) (imm : BitVec 12) : OpcodeField.Statement (.slri rd rsa imm) :=
  fun _ => opcodeField_immediate ..

theorem OpcodeField.compi (rd : RegNum) (rsa : RegNum) (imm : BitVec 12) : OpcodeField.Statement (.compi rd rsa imm) :=
  fun _ => opcodeField_immediate ..

theorem OpcodeField.lw (rd : RegNum) (imm : BitVec 14) (rsa : RegNum) : OpcodeField.Statement (.lw rd imm rsa) :=
  fun _ => opcodeField_load ..

theorem OpcodeField.lh (rd : RegNum) (imm : BitVec 14) (rsa : RegNum) : OpcodeField.Statement (.lh rd imm rsa) :=
  fun _ => opcodeField_load ..

theorem OpcodeField.lth (rd : RegNum) (imm : BitVec 14) (rsa : RegNum) : OpcodeField.Statement (.lth rd imm rsa) :=
  fun _ => opcodeField_load ..

theorem OpcodeField.lb (rd : RegNum) (imm : BitVec 14) (rsa : RegNum) : OpcodeField.Statement (.lb rd imm rsa) :=
  fun _ => opcodeField_load ..

theorem OpcodeField.sw (rsb : RegNum) (imm : BitVec 14) (rsa : RegNum) : OpcodeField.Statement (.sw rsb imm rsa) :=
  fun _ => opcodeField_store ..

theorem OpcodeField.sh (rsb : RegNum) (imm : BitVec 14) (rsa : RegNum) : OpcodeField.Statement (.sh rsb imm rsa) :=
  fun _ => opcodeField_store ..

theorem OpcodeField.sth (rsb : RegNum) (imm : BitVec 14) (rsa : RegNum) : OpcodeField.Statement (.sth rsb imm rsa) :=
  fun _ => opcodeField_store ..

theorem OpcodeField.sb (rsb : RegNum) (imm : BitVec 14) (rsa : RegNum) : OpcodeField.Statement (.sb rsb imm rsa) :=
  fun _ => opcodeField_store ..

theorem OpcodeField.li (rd : RegNum) (imm : BitVec 16) : OpcodeField.Statement (.li rd imm) :=
  fun _ => opcodeField_loadImmediate ..

theorem OpcodeField.lsi (rd : RegNum) (imm : BitVec 16) : OpcodeField.Statement (.lsi rd imm) :=
  fun _ => opcodeField_loadImmediate ..

theorem OpcodeField.lgi (rd : RegNum) (imm : BitVec 16) : OpcodeField.Statement (.lgi rd imm) :=
  fun _ => opcodeField_loadImmediate ..

theorem OpcodeField.lui (rd : RegNum) (imm : BitVec 16) : OpcodeField.Statement (.lui rd imm) :=
  fun _ => opcodeField_loadImmediate ..

theorem OpcodeField.lusi (rd : RegNum) (imm : BitVec 16) : OpcodeField.Statement (.lusi rd imm) :=
  fun _ => opcodeField_loadImmediate ..

theorem OpcodeField.lugi (rd : RegNum) (imm : BitVec 16) : OpcodeField.Statement (.lugi rd imm) :=
  fun _ => opcodeField_loadImmediate ..

theorem OpcodeField.lni (rd : RegNum) (imm : BitVec 16) : OpcodeField.Statement (.lni rd imm) :=
  fun _ => opcodeField_loadImmediate ..

theorem OpcodeField.lnsi (rd : RegNum) (imm : BitVec 16) : OpcodeField.Statement (.lnsi rd imm) :=
  fun _ => opcodeField_loadImmediate ..

theorem OpcodeField.lngi (rd : RegNum) (imm : BitVec 16) : OpcodeField.Statement (.lngi rd imm) :=
  fun _ => opcodeField_loadImmediate ..

theorem OpcodeField.luni (rd : RegNum) (imm : BitVec 16) : OpcodeField.Statement (.luni rd imm) :=
  fun _ => opcodeField_loadImmediate ..

theorem OpcodeField.lunsi (rd : RegNum) (imm : BitVec 16) : OpcodeField.Statement (.lunsi rd imm) :=
  fun _ => opcodeField_loadImmediate ..

theorem OpcodeField.lungi (rd : RegNum) (imm : BitVec 16) : OpcodeField.Statement (.lungi rd imm) :=
  fun _ => opcodeField_loadImmediate ..

theorem OpcodeField.beq (rsa : RegNum) (rsb : RegNum) (imm : BitVec 14) : OpcodeField.Statement (.beq rsa rsb imm) :=
  fun _ => opcodeField_branch ..

theorem OpcodeField.bne (rsa : RegNum) (rsb : RegNum) (imm : BitVec 14) : OpcodeField.Statement (.bne rsa rsb imm) :=
  fun _ => opcodeField_branch ..

theorem OpcodeField.bgt (rsa : RegNum) (rsb : RegNum) (imm : BitVec 14) : OpcodeField.Statement (.bgt rsa rsb imm) :=
  fun _ => opcodeField_branch ..

theorem OpcodeField.blt (rsa : RegNum) (rsb : RegNum) (imm : BitVec 14) : OpcodeField.Statement (.blt rsa rsb imm) :=
  fun _ => opcodeField_branch ..

theorem OpcodeField.j (imm : BitVec 21) : OpcodeField.Statement (.j imm) :=
  fun _ => opcodeField_jump ..

theorem OpcodeField.jal (imm : BitVec 21) : OpcodeField.Statement (.jal imm) :=
  fun _ => opcodeField_jump ..

theorem OpcodeField.jr (imm : BitVec 21) (rsa : RegNum) : OpcodeField.Statement (.jr imm rsa) :=
  fun _ => opcodeField_jump ..

theorem OpcodeField.jrl (imm : BitVec 21) (rsa : RegNum) : OpcodeField.Statement (.jrl imm rsa) :=
  fun _ => opcodeField_jump ..

theorem OpcodeField.syscall (num : BitVec 8) : OpcodeField.Statement (.syscall num) :=
  fun _ => opcodeField_system ..

theorem OpcodeField.sysret : OpcodeField.Statement (.sysret) :=
  fun _ => opcodeField_system ..

theorem OpcodeField.stspr (rsa : RegNum) (spr : BitVec 8) : OpcodeField.Statement (.stspr rsa spr) :=
  fun _ => opcodeField_system ..

theorem OpcodeField.ldspr (rd : RegNum) (spr : BitVec 8) : OpcodeField.Statement (.ldspr rd spr) :=
  fun _ => opcodeField_system ..

theorem OpcodeField.sync : OpcodeField.Statement (.sync) :=
  fun _ => opcodeField_system ..

theorem OpcodeField.lock (rd : RegNum) (rsa : RegNum) : OpcodeField.Statement (.lock rd rsa) :=
  fun _ => opcodeField_system ..

theorem OpcodeField.test (rd : RegNum) (rsa : RegNum) : OpcodeField.Statement (.test rd rsa) :=
  fun _ => opcodeField_system ..

theorem OpcodeField.pmir (level : BitVec 8) : OpcodeField.Statement (.pmir level) :=
  fun _ => opcodeField_system ..

theorem OpcodeField.pmd (level : BitVec 8) : OpcodeField.Statement (.pmd level) :=
  fun _ => opcodeField_system ..

end Sys2Proof.Laws
end

