-- ==== Sys2Proof/Machine/Assembly.lean ====
section
/-!
DEFINITION. The assembler syntax of the instructions (30_encoding R124) and the names of the registers (10_state R22, R23).
The step does not use this file.
-/

namespace Sys2Proof.Machine

/-- An operand of an assembly line. -/
inductive AsmOperand where
  /-- `$R<n>`. -/
  | reg (r : RegNum)
  /-- An immediate, by its field value; a special purpose register by its address. -/
  | imm (v : Nat)
  /-- `imm($R<n>)`. -/
  | based (v : Nat) (r : RegNum)
  deriving DecidableEq, Repr

/-- An assembly line: a mnemonic and its operands in order. -/
structure AsmLine where
  mnemonic : String
  operands : List AsmOperand
  deriving DecidableEq, Repr

/-- The assembly line of an instruction (30_encoding R124); `lock` has no rd operand there. -/
def asmLine : Instr → AsmLine
  | .add rd rsa rsb => ⟨"add", [.reg rd, .reg rsa, .reg rsb]⟩
  | .sub rd rsa rsb => ⟨"sub", [.reg rd, .reg rsa, .reg rsb]⟩
  | .addu rd rsa rsb => ⟨"addu", [.reg rd, .reg rsa, .reg rsb]⟩
  | .subu rd rsa rsb => ⟨"subu", [.reg rd, .reg rsa, .reg rsb]⟩
  | .not rd rsa => ⟨"not", [.reg rd, .reg rsa]⟩
  | .and rd rsa rsb => ⟨"and", [.reg rd, .reg rsa, .reg rsb]⟩
  | .or rd rsa rsb => ⟨"or", [.reg rd, .reg rsa, .reg rsb]⟩
  | .xor rd rsa rsb => ⟨"xor", [.reg rd, .reg rsa, .reg rsb]⟩
  | .sal rd rsa rsb => ⟨"sal", [.reg rd, .reg rsa, .reg rsb]⟩
  | .sar rd rsa rsb => ⟨"sar", [.reg rd, .reg rsa, .reg rsb]⟩
  | .sll rd rsa rsb => ⟨"sll", [.reg rd, .reg rsa, .reg rsb]⟩
  | .slr rd rsa rsb => ⟨"slr", [.reg rd, .reg rsa, .reg rsb]⟩
  | .comp rd rsa rsb => ⟨"comp", [.reg rd, .reg rsa, .reg rsb]⟩
  | .addi rd rsa imm => ⟨"addi", [.reg rd, .reg rsa, .imm imm.toNat]⟩
  | .subi rd rsa imm => ⟨"subi", [.reg rd, .reg rsa, .imm imm.toNat]⟩
  | .addui rd rsa imm => ⟨"addui", [.reg rd, .reg rsa, .imm imm.toNat]⟩
  | .subui rd rsa imm => ⟨"subui", [.reg rd, .reg rsa, .imm imm.toNat]⟩
  | .noti rd imm => ⟨"noti", [.reg rd, .imm imm.toNat]⟩
  | .andi rd rsa imm => ⟨"andi", [.reg rd, .reg rsa, .imm imm.toNat]⟩
  | .ori rd rsa imm => ⟨"ori", [.reg rd, .reg rsa, .imm imm.toNat]⟩
  | .xori rd rsa imm => ⟨"xori", [.reg rd, .reg rsa, .imm imm.toNat]⟩
  | .sali rd rsa imm => ⟨"sali", [.reg rd, .reg rsa, .imm imm.toNat]⟩
  | .sari rd rsa imm => ⟨"sari", [.reg rd, .reg rsa, .imm imm.toNat]⟩
  | .slli rd rsa imm => ⟨"slli", [.reg rd, .reg rsa, .imm imm.toNat]⟩
  | .slri rd rsa imm => ⟨"slri", [.reg rd, .reg rsa, .imm imm.toNat]⟩
  | .compi rd rsa imm => ⟨"compi", [.reg rd, .reg rsa, .imm imm.toNat]⟩
  | .lw rd imm rsa => ⟨"lw", [.reg rd, .based imm.toNat rsa]⟩
  | .lh rd imm rsa => ⟨"lh", [.reg rd, .based imm.toNat rsa]⟩
  | .lth rd imm rsa => ⟨"lth", [.reg rd, .based imm.toNat rsa]⟩
  | .lb rd imm rsa => ⟨"lb", [.reg rd, .based imm.toNat rsa]⟩
  | .sw rsb imm rsa => ⟨"sw", [.reg rsb, .based imm.toNat rsa]⟩
  | .sh rsb imm rsa => ⟨"sh", [.reg rsb, .based imm.toNat rsa]⟩
  | .sth rsb imm rsa => ⟨"sth", [.reg rsb, .based imm.toNat rsa]⟩
  | .sb rsb imm rsa => ⟨"sb", [.reg rsb, .based imm.toNat rsa]⟩
  | .li rd imm => ⟨"li", [.reg rd, .imm imm.toNat]⟩
  | .lsi rd imm => ⟨"lsi", [.reg rd, .imm imm.toNat]⟩
  | .lgi rd imm => ⟨"lgi", [.reg rd, .imm imm.toNat]⟩
  | .lui rd imm => ⟨"lui", [.reg rd, .imm imm.toNat]⟩
  | .lusi rd imm => ⟨"lusi", [.reg rd, .imm imm.toNat]⟩
  | .lugi rd imm => ⟨"lugi", [.reg rd, .imm imm.toNat]⟩
  | .lni rd imm => ⟨"lni", [.reg rd, .imm imm.toNat]⟩
  | .lnsi rd imm => ⟨"lnsi", [.reg rd, .imm imm.toNat]⟩
  | .lngi rd imm => ⟨"lngi", [.reg rd, .imm imm.toNat]⟩
  | .luni rd imm => ⟨"luni", [.reg rd, .imm imm.toNat]⟩
  | .lunsi rd imm => ⟨"lunsi", [.reg rd, .imm imm.toNat]⟩
  | .lungi rd imm => ⟨"lungi", [.reg rd, .imm imm.toNat]⟩
  | .beq rsa rsb imm => ⟨"beq", [.reg rsa, .reg rsb, .imm imm.toNat]⟩
  | .bne rsa rsb imm => ⟨"bne", [.reg rsa, .reg rsb, .imm imm.toNat]⟩
  | .bgt rsa rsb imm => ⟨"bgt", [.reg rsa, .reg rsb, .imm imm.toNat]⟩
  | .blt rsa rsb imm => ⟨"blt", [.reg rsa, .reg rsb, .imm imm.toNat]⟩
  | .j imm => ⟨"j", [.imm imm.toNat]⟩
  | .jal imm => ⟨"jal", [.imm imm.toNat]⟩
  | .jr imm rsa => ⟨"jr", [.based imm.toNat rsa]⟩
  | .jrl imm rsa => ⟨"jrl", [.based imm.toNat rsa]⟩
  | .syscall num => ⟨"syscall", [.imm num.toNat]⟩
  | .sysret => ⟨"sysret", []⟩
  | .stspr rsa spr => ⟨"stspr", [.reg rsa, .imm spr.toNat]⟩
  | .ldspr rd spr => ⟨"ldspr", [.reg rd, .imm spr.toNat]⟩
  | .sync => ⟨"sync", []⟩
  | .lock _ rsa => ⟨"lock", [.reg rsa]⟩
  | .test rd rsa => ⟨"test", [.reg rd, .reg rsa]⟩
  | .pmir level => ⟨"pmir", [.imm level.toNat]⟩
  | .pmd level => ⟨"pmd", [.imm level.toNat]⟩

/-- An immediate as the source's examples write it, in C hexadecimal (30_encoding R124). -/
def renderImm (v : Nat) : String := "0x" ++ String.ofList (Nat.toDigits 16 v)

/-- A register as the source writes it (00_scope R12). -/
def renderReg (r : RegNum) : String := "$R" ++ toString r.toNat

/-- One operand as text. -/
def renderOperand : AsmOperand → String
  | .reg r => renderReg r
  | .imm v => renderImm v
  | .based v r => renderImm v ++ "(" ++ renderReg r ++ ")"

/-- A line as text. -/
def renderLine (l : AsmLine) : String :=
  match l.operands with
  | [] => l.mnemonic
  | os => l.mnemonic ++ " " ++ String.intercalate ", " (os.map renderOperand)

/-- The names of the GPREGF registers, by number (10_state R22). -/
def gpNames : List String :=
  ["ZERO", "SP", "FP", "GP", "RA", "ARG0", "ARG1", "ARG2", "ARG3", "RVAL0", "RVAL1", "GR0", "GR1", "GR2", "GR3",
   "GR4", "GR5", "GR6", "GR7", "GR8", "GR9", "GR10", "TMP0", "TMP1", "TMP2", "TMP3", "TMP4", "TMP5", "TMP6", "TMP7",
   "HI0", "LOW0"]

/-- The names of the SYSREGF registers, by number (10_state R23). -/
def sysNames : List String :=
  ["ZERO", "SP1", "FP1", "GP1", "RA1", "SYSARG0", "SYSARG1", "SYSARG2", "SYSARG3", "SYSARG4", "SYSARG5", "SYSRVAL0",
   "SYSRVAL1", "SYSRVAL2", "SYSRVAL3", "SYSRVAL4", "GPR0", "GPR1", "GPR2", "GPR3", "GPR4", "GPR5", "GPR6", "GPR7",
   "SYSTMPR0", "SYSTMPR1", "SYSTMPR2", "SYSTMPR3", "SYSTMPR4", "SYSTMPR5", "SYSREGHI0", "SYSREGLOW0"]

end Sys2Proof.Machine
end

