-- ==== Sys2Proof/Tests/Slice0.lean ====
section
/-!
SUPPORT. Tests, by evaluation in the kernel. Expected words are written out from the encodings of spec/opcode_table.json (30_encoding
R121); expected results are those of spec/95_test_vectors.md, section 2, unless a comment says otherwise. The witness theorems
show states and operands that meet the hypotheses of the statements.
-/

open Sys2Proof Sys2Proof.Machine

namespace Sys2Proof.Tests

/-! ## Well-formedness: each check refuses an ill-formed term -/

theorem test_wellFormed_refuses_jr_of_register_0 : (Instr.jr 8 0).wellFormed = false := by decide
theorem test_wellFormed_refuses_jrl_of_register_0 : (Instr.jrl 8 0).wellFormed = false := by decide
theorem test_wellFormed_takes_jr_and_jrl_of_register_31 :
    (Instr.jr 0x1fffff 31).wellFormed = true ∧ (Instr.jrl 0x1fffff 31).wellFormed = true := by decide

/-! ## Encoding -/

/-- The word decodes to the instruction, and the instruction encodes to the word. -/
def codes (w : Word) (i : Instr) : Bool :=
  decide (decode defaultConfig w = .ok i) && decide (encode defaultConfig i = w) && i.wellFormed

/-- The word, with every ignored bit set, decodes to the instruction. -/
def ignores (w : Word) (i : Instr) : Bool := decide (decode defaultConfig w = .ok i)

theorem test_codes_integer :
    (codes 0b000001_00011_01001_10110_0000000_0000 (.add 3 9 22) &&
      codes 0b000001_00011_01001_10110_0000000_0001 (.sub 3 9 22) &&
      codes 0b000001_00011_01001_10110_0000000_0010 (.addu 3 9 22) &&
      codes 0b000001_00011_01001_10110_0000000_0011 (.subu 3 9 22) &&
      codes 0b000001_00011_01001_000000000000_0100 (.not 3 9) &&
      codes 0b000001_00011_01001_10110_0000000_0101 (.and 3 9 22) &&
      codes 0b000001_00011_01001_10110_0000000_0110 (.or 3 9 22) &&
      codes 0b000001_00011_01001_10110_0000000_0111 (.xor 3 9 22) &&
      codes 0b000001_00011_01001_10110_00000001000 (.sal 3 9 22) &&
      codes 0b000001_00011_01001_10110_00000001001 (.sar 3 9 22) &&
      codes 0b000001_00011_01001_10110_00000001010 (.sll 3 9 22) &&
      codes 0b000001_00011_01001_10110_00000001011 (.slr 3 9 22) &&
      codes 0b000001_00011_01001_10110_0000000_1100 (.comp 3 9 22)) = true := by decide

theorem test_codes_immediate :
    (codes 0b000011_00011_01001_101001011100_0000 (.addi 3 9 0xa5c) &&
      codes 0b000011_00011_01001_101001011100_0001 (.subi 3 9 0xa5c) &&
      codes 0b000011_00011_01001_101001011100_0010 (.addui 3 9 0xa5c) &&
      codes 0b000011_00011_01001_101001011100_0011 (.subui 3 9 0xa5c) &&
      codes 0b000011_00011_00000_101001011100_0100 (.noti 3 0xa5c) &&
      codes 0b000011_00011_01001_101001011100_0101 (.andi 3 9 0xa5c) &&
      codes 0b000011_00011_01001_101001011100_0110 (.ori 3 9 0xa5c) &&
      codes 0b000011_00011_01001_101001011100_0111 (.xori 3 9 0xa5c) &&
      codes 0b000011_00011_01001_101001011100_1000 (.sali 3 9 0xa5c) &&
      codes 0b000011_00011_01001_101001011100_1001 (.sari 3 9 0xa5c) &&
      codes 0b000011_00011_01001_101001011100_1010 (.slli 3 9 0xa5c) &&
      codes 0b000011_00011_01001_101001011100_1011 (.slri 3 9 0xa5c) &&
      codes 0b000011_00011_01001_101001011100_1100 (.compi 3 9 0xa5c)) = true := by decide

theorem test_codes_load :
    (codes 0b010010_00011_01001_00_10101001011100 (.lw 3 0x2a5c 9) &&
      codes 0b010010_00011_01001_01_10101001011100 (.lh 3 0x2a5c 9) &&
      codes 0b010010_00011_01001_10_10101001011100 (.lth 3 0x2a5c 9) &&
      codes 0b010010_00011_01001_11_10101001011100 (.lb 3 0x2a5c 9)) = true := by decide

theorem test_codes_store :
    (codes 0b01101000_101_01001_10110_01001011100 (.sw 22 0x2a5c 9) &&
      codes 0b01101001_101_01001_10110_01001011100 (.sh 22 0x2a5c 9) &&
      codes 0b01101010_101_01001_10110_01001011100 (.sth 22 0x2a5c 9) &&
      codes 0b01101011_101_01001_10110_01001011100 (.sb 22 0x2a5c 9)) = true := by decide

theorem test_codes_loadImmediate :
    (codes 0b000010_00011_00000_1000010000100001 (.li 3 0x8421) &&
      codes 0b000010_00011_00001_1000010000100001 (.lsi 3 0x8421) &&
      codes 0b000010_00011_00010_1000010000100001 (.lgi 3 0x8421) &&
      codes 0b000010_00011_00011_1000010000100001 (.lui 3 0x8421) &&
      codes 0b000010_00011_00100_1000010000100001 (.lusi 3 0x8421) &&
      codes 0b000010_00011_00101_1000010000100001 (.lugi 3 0x8421) &&
      codes 0b000010_00011_01000_1000010000100001 (.lni 3 0x8421) &&
      codes 0b000010_00011_01001_1000010000100001 (.lnsi 3 0x8421) &&
      codes 0b000010_00011_01010_1000010000100001 (.lngi 3 0x8421) &&
      codes 0b000010_00011_01011_1000010000100001 (.luni 3 0x8421) &&
      codes 0b000010_00011_01100_1000010000100001 (.lunsi 3 0x8421) &&
      codes 0b000010_00011_01101_1000010000100001 (.lungi 3 0x8421)) = true := by decide

theorem test_codes_branch :
    (codes 0b000101_10101_01001_10110_001011100_00 (.beq 9 22 0x2a5c) &&
      codes 0b000101_10101_01001_10110_001011100_01 (.bne 9 22 0x2a5c) &&
      codes 0b000101_10101_01001_10110_001011100_10 (.bgt 9 22 0x2a5c) &&
      codes 0b000101_10101_01001_10110_001011100_11 (.blt 9 22 0x2a5c)) = true := by decide

theorem test_codes_jump :
    (codes 0b000110_10010_00000_1010010111000011 (.j 0x12a5c3) &&
      codes 0b000111_10010_00000_1010010111000011 (.jal 0x12a5c3) &&
      codes 0b000110_10010_01001_1010010111000011 (.jr 0x12a5c3 9) &&
      codes 0b000111_10010_01001_1010010111000011 (.jrl 0x12a5c3 9)) = true := by decide

theorem test_codes_system :
    (codes 0b001000_0000000000_00000000_00010010 (.syscall 0x12) &&
      codes 0b001000_0000000000_00000001_00000000 .sysret &&
      codes 0b001000_00000_01001_00000010_00010010 (.stspr 9 0x12) &&
      codes 0b001000_00011_00000_00000011_00010010 (.ldspr 3 0x12) &&
      codes 0b001000_0000000000_00000100_00000000 .sync &&
      codes 0b001000_00011_01001_00000101_00000000 (.lock 3 9) &&
      codes 0b001000_00011_01001_00000110_00000000 (.test 3 9) &&
      codes 0b001000_0000000000_00000111_00010010 (.pmir 0x12) &&
      codes 0b001000_0000000000_00001000_00010010 (.pmd 0x12)) = true := by decide

theorem test_ignored_bits :
    (ignores 0b000001_00011_01001_10110_1111111_0000 (.add 3 9 22) &&
      ignores 0b000001_00011_01001_10110_1111111_0001 (.sub 3 9 22) &&
      ignores 0b000001_00011_01001_10110_1111111_0010 (.addu 3 9 22) &&
      ignores 0b000001_00011_01001_10110_1111111_0011 (.subu 3 9 22) &&
      ignores 0b000001_00011_01001_111111111111_0100 (.not 3 9) &&
      ignores 0b000001_00011_01001_10110_1111111_0101 (.and 3 9 22) &&
      ignores 0b000001_00011_01001_10110_1111111_0110 (.or 3 9 22) &&
      ignores 0b000001_00011_01001_10110_1111111_0111 (.xor 3 9 22) &&
      ignores 0b000001_00011_01001_10110_1111111_1100 (.comp 3 9 22) &&
      ignores 0b001000_1111111111_00000000_00010010 (.syscall 0x12) &&
      ignores 0b001000_1111111111_00000001_11111111 .sysret &&
      ignores 0b001000_11111_01001_00000010_00010010 (.stspr 9 0x12) &&
      ignores 0b001000_00011_11111_00000011_00010010 (.ldspr 3 0x12) &&
      ignores 0b001000_1111111111_00000100_11111111 .sync &&
      ignores 0b001000_00011_01001_00000101_11111111 (.lock 3 9) &&
      ignores 0b001000_00011_01001_00000110_11111111 (.test 3 9) &&
      ignores 0b001000_1111111111_00000111_00010010 (.pmir 0x12) &&
      ignores 0b001000_1111111111_00001000_00010010 (.pmd 0x12)) = true := by decide

/-- 30_encoding R103: under `OPMAP = S821` the opcode bits alone differ. -/
theorem test_decode_of_the_other_map :
    decode { defaultConfig with opmap := .s821 } 0b010011_00011_01001_10110_0000000_0000 = .ok (.add 3 9 22) ∧
    decode { defaultConfig with opmap := .s821 } 0b000100_00000_00000_0000000000001000 = .ok (.jal 8) ∧
    decode { defaultConfig with opmap := .s821 } 0b100000_00000_00000_00000100_00000000 = .ok .sync ∧
    decode { defaultConfig with opmap := .s821 } 0xffffffff = .error .coprocessor := by decide

/-- Each rejection by its name (30_encoding R120, R122, 40_integer R141, 47_coprocessor R280). -/
theorem test_rejections :
    decode defaultConfig 0x00000000 = .error .unassignedOpcode ∧ decode defaultConfig 0x0461100d = .error .reservedAluop ∧
    decode defaultConfig 0x0c610004 = .error .notiRsa ∧ decode defaultConfig 0x08b00001 = .error .unassignedDsel ∧
    decode defaultConfig 0x20000900 = .error .unassignedFunct ∧ decode defaultConfig 0x0461101a = .error .shiftField ∧
    decode defaultConfig 0x80000000 = .error .coprocessor ∧ decodeBytes defaultConfig [0x04, 0x61] = .error .truncated := by
  decide

/-- The host's interface: the decoder on a table word, and the step on it right after reset. -/
theorem test_host_interface :
    decodeTableWord 32 0x04611000 = some (.add 3 1 2) ∧ decodeTableWord 32 0 = none ∧
    step (State.reset.withFetchWord 32 0x04611000) = exec (.add 3 1 2) (State.reset.withFetchWord 32 0x04611000) :=
  ⟨by decide, by decide, rfl⟩

/-! ## One step -/

/-- The state before a vector: `pc` is 0x100, the table of 95 section 2.6, a revision number. -/
def start : State :=
  { State.reset with
    pc := 0x100
    cfg := { defaultConfig with
      cpurev := 0x5a, syscallTable := [(7, ⟨0x2000, 0, 3⟩), (9, ⟨0x3000, 4, 5⟩), (2, ⟨0x2800, 0, 1⟩)] } }

/-- `start` with two registers written. -/
def regs (a b : Word) : State := (start.writeReg 1 a).writeReg 2 b

/-- The answer is a next state that passes the check. -/
def passes (r : Result) (check : State → Bool) : Bool :=
  match r with
  | .next t => check t
  | .fault _ => false
  | .refused _ => false

/-- The step of the word ends in a next state that passes the check. -/
def runs (w : Nat) (s : State) (check : State → Bool) : Bool := passes (step (s.withFetchWord 32 w)) check

/-- The step raises the exception at the instruction. -/
def raises (w : Nat) (s : State) (code : BitVec 16) (info : Word) : Bool :=
  runs w s fun t => t.halted && t.ecode == code && t.haltInfo == info && t.pc == s.pc && t.bank == s.bank && t.regs == s.regs

/-- The step is refused for this reason. -/
def refuses (w : Nat) (s : State) (r : Refusal) : Bool :=
  match step (s.withFetchWord 32 w) with
  | .next _ => false
  | .fault _ => false
  | .refused q => q == r

/-- The step stops with this fault. -/
def faults (w : Nat) (s : State) (f : Fault) : Bool :=
  match step (s.withFetchWord 32 w) with
  | .next _ => false
  | .fault q => q == f
  | .refused _ => false

/-- An Integer or Immediate word on registers 1 and 2: the result in register 3, Z and OV. -/
def alu (w : Nat) (a b r : Word) (z ov : Bool) : Bool :=
  runs w (regs a b) fun t => t.readReg 3 == r && t.stat.z == z && t.stat.ov == ov && t.pc == 0x104

theorem test_add_carries_out : alu 0x04611000 0xFFFFFFFF 1 0 true true = true := by decide
theorem test_add_has_no_signed_overflow : alu 0x04611000 0x7FFFFFFF 1 0x80000000 false false = true := by decide
theorem test_sub_borrows : alu 0x04611001 5 7 0xFFFFFFFE false true = true := by decide
theorem test_sub_has_no_signed_overflow : alu 0x04611001 0x80000000 1 0x7FFFFFFF false false = true := by decide
theorem test_addu_wraps : alu 0x04611002 0xFFFFFFFF 2 1 false false = true := by decide
theorem test_subu_wraps : alu 0x04611003 0 1 0xFFFFFFFF false false = true := by decide
theorem test_not : alu 0x04610004 0xFFFF 0 0xFFFF0000 false false = true := by decide
theorem test_not_of_ones : alu 0x04610004 0xFFFFFFFF 0 0 true false = true := by decide
theorem test_and : alu 0x04611005 0xF0F0 0xFF0 0xF0 false false = true := by decide
theorem test_or : alu 0x04611006 0xF0F0 0xFF0 0xFFF0 false false = true := by decide
theorem test_xor : alu 0x04611007 0xF0F0 0xFF0 0xFF00 false false = true := by decide
theorem test_sal_drops_the_sign : alu 0x04611008 0x80000000 1 0 true false = true := by decide
theorem test_sar_fills_with_the_sign : alu 0x04611009 0x80000000 4 0xF8000000 false false = true := by decide
theorem test_sar_by_32 : alu 0x04611009 0x80000000 0x20 0xFFFFFFFF false false = true := by decide
theorem test_sll_by_31 : alu 0x0461100a 1 0x1F 0x80000000 false false = true := by decide
theorem test_sll_by_2_to_31 : alu 0x0461100a 0xFFFFFFFF 0x80000000 0 true false = true := by decide
theorem test_slr : alu 0x0461100b 0x80000000 4 0x8000000 false false = true := by decide
theorem test_slr_by_33 : alu 0x0461100b 0xFFFFFFFF 0x21 0 true false = true := by decide
theorem test_comp_of_equals : alu 0x0461100c 5 5 0 true false = true := by decide
theorem test_comp_is_signed : alu 0x0461100c 0x80000000 0x7FFFFFFF 0xFFFFFFFF false false = true := by decide
theorem test_addi_extends_with_zeros : alu 0x0c61fff0 1 0 0x1000 false false = true := by decide
theorem test_addi_carries_out : alu 0x0c610010 0xFFFFFFFF 0 0 true true = true := by decide
theorem test_subi_borrows : alu 0x0c600011 0 0 0xFFFFFFFF false true = true := by decide
theorem test_addui_wraps : alu 0x0c610052 0xFFFFFFFE 0 3 false false = true := by decide
theorem test_subui_wraps : alu 0x0c610053 3 0 0xFFFFFFFE false false = true := by decide
theorem test_noti : alu 0x0c60fff4 0 0 0xFFFFF000 false false = true := by decide
theorem test_andi : alu 0x0c61fff5 0xABCDE123 0 0x123 false false = true := by decide
theorem test_ori : alu 0x0c610056 0x1000 0 0x1005 false false = true := by decide
theorem test_xori : alu 0x0c61fff7 0xFFFFFFFF 0 0xFFFFF000 false false = true := by decide
theorem test_sali : alu 0x0c610058 1 0 0x20 false false = true := by decide
theorem test_sali_by_32 : alu 0x0c610208 1 0 0 true false = true := by decide
theorem test_sari : alu 0x0c610059 0xFFFFFF00 0 0xFFFFFFF8 false false = true := by decide
theorem test_sari_by_4095 : alu 0x0c61fff9 0x80000000 0 0xFFFFFFFF false false = true := by decide
theorem test_slli : alu 0x0c61005a 0x8000001 0 0x20 false false = true := by decide
theorem test_slri : alu 0x0c61005b 0xFFFFFF00 0 0x7FFFFF8 false false = true := by decide
theorem test_slri_by_32 : alu 0x0c61020b 0xFFFFFFFF 0 0 true false = true := by decide
theorem test_compi_of_a_greater : alu 0x0c61005c 9 0 1 false false = true := by decide
theorem test_compi_extends_with_zeros : alu 0x0c61fffc 0xFFE 0 0xFFFFFFFF false false = true := by decide

theorem test_addu_leaves_ov_set :
    runs 0x04611002 ((regs 0xFFFFFFFF 1).setOv true) (fun t => t.stat.z && t.stat.ov) = true := by decide

/-- `subi $R3,$R0,1` with ROI enabled (95 section 2.7): Rd and OV are written, then the ROI slot. -/
theorem test_subi_enters_roi :
    runs 0x0c600011 ((regs 0 0).setEnables true false |>.setSpr { start.spr with uinten := 2 })
      (fun t => t.readReg 3 == 0xFFFFFFFF && t.stat.ov && t.pc == 0x10 && !t.halted) = true := by decide

/-- A load of register 3 from base register 1; 0x1000 to 0x1007 hold 81 82 83 84 05 06 07 08. -/
def loads (w : Nat) (a r : Word) : Bool :=
  runs w ((regs a 0).setDmem [(0x1000, 0x81), (0x1001, 0x82), (0x1002, 0x83), (0x1003, 0x84), (0x1004, 5), (0x1005, 6),
    (0x1006, 7), (0x1007, 8)]) fun t => t.readReg 3 == r && t.pc == 0x104 && !t.stat.z

theorem test_lw : loads 0x48610000 0x1000 0x81828384 = true := by decide
theorem test_lw_below_its_base : loads 0x48613ffc 0x1008 0x05060708 = true := by decide
theorem test_lh_extends_with_zeros : loads 0x48614000 0x1000 0x8182 = true := by decide
theorem test_lth_extends_with_zeros : loads 0x48618000 0x1000 0x818283 = true := by decide
theorem test_lb_extends_with_zeros : loads 0x4861c000 0x1000 0x81 = true := by decide
theorem test_lb_wraps : loads 0x4861dfff 0xFFFFF001 0x81 = true := by decide
theorem test_lh_misaligned : raises 0x48614001 (regs 0x1000 0) 1 0x1001 = true := by decide
theorem test_lth_misaligned : raises 0x48618001 (regs 0x1000 0) 1 0x1001 = true := by decide

/-- A store of 0xA1B2C3D4 from register 2 over a memory of EE: the bytes at 0x1000 to 0x1007 after it. -/
def stores (w : Nat) (a : Word) (bytes : List Byte) : Bool :=
  runs w ((regs a 0xA1B2C3D4).setDmem ((List.range 8).map fun k => (0x1000 + k, 0xEE))) fun t =>
    (List.range 8).map (fun k => t.readByte (BitVec.ofNat 32 (0x1000 + k))) == bytes && t.pc == 0x104

theorem test_sw : stores 0x68011004 0x1000 [0xEE, 0xEE, 0xEE, 0xEE, 0xA1, 0xB2, 0xC3, 0xD4] = true := by decide
theorem test_sw_with_a_split_offset :
    stores 0x68211004 0x7FC [0xA1, 0xB2, 0xC3, 0xD4, 0xEE, 0xEE, 0xEE, 0xEE] = true := by decide
theorem test_sh : stores 0x69011002 0x1000 [0xEE, 0xEE, 0xC3, 0xD4, 0xEE, 0xEE, 0xEE, 0xEE] = true := by decide
theorem test_sth : stores 0x6a011004 0x1000 [0xEE, 0xEE, 0xEE, 0xEE, 0xB2, 0xC3, 0xD4, 0xEE] = true := by decide
theorem test_sb : stores 0x6b011007 0x1000 [0xEE, 0xEE, 0xEE, 0xEE, 0xEE, 0xEE, 0xEE, 0xD4] = true := by decide
theorem test_sh_misaligned : raises 0x69011003 (regs 0x1000 7) 1 0x1003 = true := by decide
theorem test_sth_misaligned : raises 0x6a011002 (regs 0x1000 7) 1 0x1002 = true := by decide

/-- Register 5 of GPREGF, SYSREGF and GLBREGF after a load-immediate; each held 0x1234ABCD before. -/
def imms (w : Nat) (gp sys glb : Word) : Bool :=
  runs w (((start.writeGp 5 0x1234ABCD).writeSys 5 0x1234ABCD).writeGlb 5 0x1234ABCD) fun t =>
    t.regs.readGp 5 == gp && t.regs.readSys 5 == sys && t.regs.readGlb 5 == glb && t.pc == 0x104

theorem test_li : imms 0x08a08001 0xFFFF8001 0x1234ABCD 0x1234ABCD = true := by decide
theorem test_lsi : imms 0x08a18001 0x1234ABCD 0xFFFF8001 0x1234ABCD = true := by decide
theorem test_lgi : imms 0x08a28001 0x1234ABCD 0x1234ABCD 0xFFFF8001 = true := by decide
theorem test_lui : imms 0x08a38001 0x80010000 0x1234ABCD 0x1234ABCD = true := by decide
theorem test_lusi : imms 0x08a48001 0x1234ABCD 0x80010000 0x1234ABCD = true := by decide
theorem test_lugi : imms 0x08a58001 0x1234ABCD 0x1234ABCD 0x80010000 = true := by decide
theorem test_lni : imms 0x08a88001 0x8001 0x1234ABCD 0x1234ABCD = true := by decide
theorem test_lnsi : imms 0x08a98001 0x1234ABCD 0x8001 0x1234ABCD = true := by decide
theorem test_lngi : imms 0x08aa8001 0x1234ABCD 0x1234ABCD 0x8001 = true := by decide
theorem test_luni : imms 0x08ab8001 0x80010000 0x1234ABCD 0x1234ABCD = true := by decide
theorem test_lunsi : imms 0x08ac8001 0x1234ABCD 0x80010000 0x1234ABCD = true := by decide
theorem test_lungi : imms 0x08ad8001 0x1234ABCD 0x1234ABCD 0x80010000 = true := by decide
theorem test_lgi_writes_register_0 : runs 0x08021234 start (fun t => t.regs.readGlb 0 == 0x1234) = true := by decide
theorem test_li_discards_register_0 : runs 0x08001234 start (fun t => t.regs.readGp 0 == 0) = true := by decide
theorem test_lsi_writes_the_shared_register_16 :
    runs 0x0a010042 start (fun t => t.regs.readGp 16 == 0x42 && t.regs.readSys 16 == 0x42) = true := by decide

/-- A branch or jump on registers 1 and 2 from 0x100: the next `pc`. -/
def goes (w : Nat) (a b pc : Word) : Bool := runs w (regs a b) fun t => t.pc == pc && t.readReg 4 == 0

theorem test_beq_taken : goes 0x14011040 5 5 0x110 = true := by decide
theorem test_beq_backward : goes 0x17e117e0 1 1 0xF8 = true := by decide
theorem test_bne_taken : goes 0x14011041 5 6 0x110 = true := by decide
theorem test_bne_not_taken : goes 0x14011041 5 5 0x104 = true := by decide
theorem test_bgt_taken : goes 0x14011042 1 0xFFFFFFFF 0x110 = true := by decide
theorem test_bgt_of_equals : goes 0x14011042 5 5 0x104 = true := by decide
theorem test_blt_taken : goes 0x14011043 0xFFFFFFFF 1 0x110 = true := by decide
theorem test_blt_of_equals : goes 0x14011043 5 5 0x104 = true := by decide
theorem test_j_forward : goes 0x19e0fffc 0 0 0x1000FC = true := by decide
theorem test_j_backward : goes 0x1be0fffc 0 0 0xFC = true := by decide
theorem test_jr : runs 0x1be5fffc (start.writeReg 5 0x2000) (fun t => t.pc == 0x1FFC && t.readReg 4 == 0) = true := by decide
theorem test_jr_to_a_misaligned_address : runs 0x18050000 (start.writeReg 5 0x2002) (fun t => t.pc == 0x2002) = true := by decide
theorem test_jal : runs 0x1c000100 start (fun t => t.pc == 0x200 && t.readReg 4 == 0x104) = true := by decide
theorem test_jal_links_in_the_current_bank :
    runs 0x1c000100 (start.setBank .sys) (fun t => t.regs.readSys 4 == 0x104 && t.regs.readGp 4 == 0) = true := by decide
theorem test_jrl :
    runs 0x1c161234 (start.writeReg 22 0x10000) (fun t => t.pc == 0x11234 && t.readReg 4 == 0x104) = true := by decide
theorem test_jrl_reads_its_base_before_the_link :
    runs 0x1c040000 (start.writeReg 4 0x300) (fun t => t.pc == 0x300 && t.readReg 4 == 0x104) = true := by decide

/-- `start` with a table, at a permission level, with a value in register 5. -/
def atLevel (level : BitVec 3) (v : Word) : State := { (start.setPml level).writeReg 5 v with sysctpValid := true }

theorem test_syscall_raises_the_level :
    runs 0x20000007 (atLevel 0 0) (fun t => t.pc == 0x2000 && t.bank == .sys && t.pml == 3 && t.pema && t.sysretPc == 0x104 &&
      t.sysretPml == 0 && !t.halted) = true := by decide
theorem test_syscall_below_its_level :
    raises 0x20000009 (atLevel 3 0) 0 9 = true ∧ raises 0x20000008 (atLevel 7 0) 9 8 = true := by decide
theorem test_sysret :
    runs 0x20000100 ({ atLevel 3 0 with sysretPc := 0x104, sysretPml := 0 }.setBank .sys |>.setPema true) (fun t =>
      t.pc == 0x104 && t.bank == .gp && t.pml == 0 && t.pema) = true := by decide
theorem test_sysret_outside_a_call : refuses 0x20000100 start .sysretOutsideSyscall = true := by decide
theorem test_stspr_writes_the_enables :
    runs 0x20050202 (atLevel 2 0xFFFFFF01) (fun t => !t.stat.gine && t.stat.spcp && t.pml == 2 && t.pc == 0x104) = true := by
  decide
theorem test_stspr_below_the_level : raises 0x20050208 (atLevel 3 0xABCD1234) 0 8 = true := by decide
theorem test_ldspr_reads_stat :
    runs 0x20c00302 (start.setZ true |>.setEnables true false) (fun t => t.readReg 6 == 0x9E) = true := by decide
theorem test_ldspr_below_the_level : raises 0x20c00304 (atLevel 2 0) 0 4 = true := by decide
theorem test_sync : runs 0x23ff04ff start (fun t => t.pc == 0x104) = true := by decide
theorem test_lock_takes :
    runs 0x20c50500 ((start.writeReg 5 0x4001).setLocks [0x4000])
      (fun t => t.readReg 6 == 0 && t.locks == [0x4000, 0x4001]) = true := by decide
theorem test_test_of_a_free_address :
    runs 0x20c50600 (start.writeReg 5 0x4000) (fun t => t.readReg 6 == 0 && t.locks == []) = true := by decide
theorem test_pmir_without_a_grant : raises 0x20000707 (atLevel 5 0) 10 7 = true := by decide
theorem test_pmd : runs 0x20000805 (atLevel 7 0) (fun t => t.pml == 5 && t.pc == 0x104) = true := by decide
theorem test_pmd_to_the_reserved_level : raises 0x20000806 (atLevel 7 0) 10 6 = true := by decide

/-! ## Stops, interrupts, fetch -/

theorem test_refusals :
    refuses 0x0461101a start (.shiftField 0x0461101a) = true ∧ refuses 0x20050202 (atLevel 7 0x80) (.statReadOnlyBits 0x80) = true ∧
    refuses 0x20050203 start (.unknownSpr 3) = true ∧ refuses 0x20c00318 start (.unknownSpr 0x18) = true ∧
    refuses 0x80000000 (start.setEnables false true) (.cpmiNotEnabled 0x80000000) = true := by decide
theorem test_illegal_instructions :
    faults 0x00000000 start (.illegalInstruction 0x100 0) = true ∧
    faults 0x80000000 start (.illegalInstruction 0x100 0x80000000) = true ∧
    faults 0x2000ff00 start (.illegalInstruction 0x100 0x2000ff00) = true := by decide
theorem test_coprocessor_word_enters_cpmi :
    runs 0x80000000 ((start.setEnables true true).setSpr { start.spr with uinten := 1 })
      (fun t => t.pc == 8 && !t.halted && t.ecode == 0) = true := by decide
theorem test_misaligned_fetch : raises 0x04611000 (start.setPc 0x102) 1 0x102 = true := by decide

/-! ## Assembly (30_encoding R124 to R126) and macros (46_macros) -/
theorem test_asm_lines :
    renderLine (asmLine (.lw 3 0x3ffc 1)) = "lw $R3, 0x3ffc($R1)" ∧ renderLine (asmLine (.addi 3 1 0xfff)) = "addi $R3, $R1, 0xfff" ∧
    renderLine (asmLine .sync) = "sync" ∧ gpNames.length = 32 ∧ sysNames.length = 32 := by decide

/-- 95 section 2.8: `call 0x00011234` and `ret`. -/
theorem test_macros :
    (expandCall 0x00011234).map (encode defaultConfig) = [0x0ac30001, 0x1c161234] ∧
    expandRet.map (encode defaultConfig) = [0x18040000] := by decide

/-! ## Witnesses: states and operands that meet the hypotheses of the statements -/

theorem of_passes {r : Result} {check : State → Bool} (h : passes r check = true) : ∃ t, r = .next t ∧ check t = true := by
  cases r with
  | next t => exact ⟨t, rfl, h⟩
  | fault f => cases h
  | refused f => cases h

theorem synced_of_separate {s : State} (a : Word) (h : s.cfg.unifiedMemory = false) : Synced s a := by
  intro hu
  rw [h] at hu
  cases hu

theorem backed_of_nothing_unbacked {s : State} (a : Word) (n : Nat) (h : s.cfg.unbacked = []) : Backed s a n := by
  intro k _ r hr
  rw [h] at hr
  cases hr

theorem lessThan_signed {s : State} {a b : Word} (h : s.cfg.cmpOrder = .signed) : lessThan s a b ↔ a.toInt < b.toInt := by
  unfold lessThan
  rw [h]

/-- `start` in a unified memory. -/
def unified : State := { start with cfg := { start.cfg with unifiedMemory := true }, unsynced := [0x200] }

theorem test_witness_DecodeOfEncodeIsTheInstruction :
    (Instr.jrl 0 1).wellFormed = true ∧ (Instr.noti 31 0xfff).wellFormed = true := by decide

theorem test_witness_DecodedInstructionsAreWellFormed : decode defaultConfig 0x1c1f0000 = .ok (.jrl 0 31) := by decide

theorem test_witness_StepExecutesTheDecodedInstruction :
    let s := start.withFetchWord 32 0x04611000
    s.halted = false ∧ s.pc.toNat % 4 = 0 ∧ fetchByte s s.pc = some 0x04 ∧ fetchByte s (s.pc + 1) = some 0x61 ∧
      fetchByte s (s.pc + 2) = some 0x10 ∧ fetchByte s (s.pc + 3) = some 0x00 ∧ Synced s s.pc ∧
      decode s.cfg (0x04#8 ++ 0x61#8 ++ 0x10#8 ++ 0x00#8) = .ok (.add 3 1 2) :=
  ⟨rfl, by decide, by decide, by decide, by decide, by decide, synced_of_separate _ rfl, by decide⟩

theorem test_witness_StepExecutesTheDecodedInstruction_in_a_unified_memory :
    let s := unified.withFetchWord 32 0x04611000
    s.halted = false ∧ s.pc.toNat % 4 = 0 ∧ fetchByte s (s.pc + 3) = some 0x00 ∧ Synced s s.pc :=
  ⟨rfl, by decide, by decide, fun _ => by decide⟩

theorem test_witness_PlacedInstructionIsTheNextExecuted :
    start.halted = false ∧ start.pc.toNat % 4 = 0 ∧ (unified.cfg.unifiedMemory = true → Backed unified unified.pc 4) ∧
      Instr.wellFormed .sync = true :=
  ⟨rfl, by decide, fun _ => backed_of_nothing_unbacked _ _ rfl, by decide⟩

theorem test_witness_HaltedCoreTakesNoStep : (raiseException .invpr 6 start).halted = true := rfl

theorem test_witness_MisalignedFetchRaisesMisaddr :
    (start.setPc 0xFFFFFFFF).halted = false ∧ (start.setPc 0xFFFFFFFF).pc.toNat % 4 ≠ 0 ∧ (start.setPc 1).pc.toNat % 4 ≠ 0 := by
  decide

/-- The parameters and the front end's conditions on a placed word. -/
theorem placed_word (w : Nat) :
    (start.withFetchWord 32 w).cfg.opmap = .s83 ∧ (start.withFetchWord 32 w).cfg.opcSys = .b001000 ∧
      Synced (start.withFetchWord 32 w) (start.withFetchWord 32 w).pc ∧ (start.withFetchWord 32 w).cfg.cpnum = 0 ∧
      (start.withFetchWord 32 w).halted = false ∧ (start.withFetchWord 32 w).pc.toNat % 4 = 0 :=
  ⟨rfl, rfl, synced_of_separate _ rfl, rfl, rfl, show (0x100 : Word).toNat % 4 = 0 by decide⟩

/-- With `placed_word`; a word for each clause, at the bounds of its range. -/
theorem test_witness_ReservedEncodingsAreIllegal :
    (∀ w ∈ [0x00000000, 0x7c000000, 0x0461100d, 0x0461100f, 0x0c61100d, 0x0c610004, 0x0c7f0004, 0x08a60001, 0x08af0001,
      0x08b00001, 0x08bf0001, 0x20000900, 0x2000ff00],
      fetchWord (start.withFetchWord 32 w) 0x100 = some (BitVec.ofNat 32 w)) ∧
    (0x7c000000 / 2 ^ 26 < 32 ∧ 0x7c000000 / 2 ^ 26 ∉ [0x01, 0x02, 0x03, 0x05, 0x06, 0x07, 0x08, 0x12, 0x1a]) ∧
    (0x0461100d / 2 ^ 26 = 0x01 ∧ 0x0461100d % 16 = 0xd) ∧ (0x0c61100d / 2 ^ 26 = 0x03 ∧ 0x0c61100d % 16 = 0xd) ∧
    (0x0c610004 / 2 ^ 26 = 0x03 ∧ 0x0c610004 % 16 = 0x4 ∧ 0x0c610004 / 2 ^ 16 % 32 = 1) ∧
    (0x08af0001 / 2 ^ 26 = 0x02 ∧ 0x08af0001 / 2 ^ 16 % 32 = 0x0f ∧ 0x08b00001 / 2 ^ 16 % 32 = 0x10) ∧
    (0x20000900 / 2 ^ 26 = 0x08 ∧ 0x20000900 / 2 ^ 8 % 256 = 0x09) := by decide

theorem test_witness_ShiftWithShftFieldIsRefused :
    fetchWord (start.withFetchWord 32 0x04611018) 0x100 = some (0b000001#6 ++ 3#5 ++ 1#5 ++ 2#5 ++ 1#7 ++ 0x8#4) ∧
    fetchWord (start.withFetchWord 32 0x046117fb) 0x100 = some (0b000001#6 ++ 3#5 ++ 1#5 ++ 2#5 ++ 127#7 ++ 0xb#4) := by
  decide

/-- `start` with one co-processor, which claims the opcode 100000. -/
def withCoprocessor : State := { start with cfg := { start.cfg with cpnum := 1, claimedOpcodes := [0b100000] } }

theorem test_witness_CoprocessorWordsAreIllegalOrEnterCpmi :
    fetchWord (start.withFetchWord 32 0x80000000) 0x100 = some 0x80000000 ∧ 2 ^ 31 ≤ (0x80000000 : Word).toNat ∧
    start.cfg.cpnum = 0 ∧ withCoprocessor.cfg.cpnum ≠ 0 ∧
    (0x83ffffff : Word).extractLsb' 26 6 ∈ withCoprocessor.cfg.claimedOpcodes ∧
    (0x84000000 : Word).extractLsb' 26 6 ∉ withCoprocessor.cfg.claimedOpcodes ∧
    start.stat.spcp = false ∧ (start.setEnables true true).stat.spcp = true ∧
    CpmiEnabled ((start.setEnables true true).setSpr { start.spr with uinten := 1 }) ∧ ¬CpmiEnabled (start.setEnables true true) :=
  ⟨by decide, by decide, rfl, by decide, by decide, by decide, rfl, rfl, ⟨rfl, by decide⟩, fun h => absurd h.2 (by decide)⟩

theorem test_witness_StoredWordIsFetchableAfterSync :
    unified.cfg.unifiedMemory = true ∧ unified.halted = false ∧ (effectiveAddr unified 0 0x1000).toNat % 4 = 0 ∧
      ∃ t, exec (.sw 2 0x1000 0) unified = .next t :=
  ⟨rfl, rfl, by decide, (of_passes (check := fun _ => true) (by decide)).imp fun _ h => h.1⟩

theorem test_witness_RegisterFilesReadAndWrite :
    sharedReg 16 ∧ sharedReg 23 ∧ ¬sharedReg 15 ∧ ¬sharedReg 24 := by
  unfold sharedReg; decide

theorem test_witness_LogicInstructionsWriteEachBit (a b : Word) :
    (∀ k < 32, (a &&& b).getLsbD k = (a.getLsbD k && b.getLsbD k)) ∧
    (∀ k < 32, (a ||| b).getLsbD k = (a.getLsbD k || b.getLsbD k)) ∧
    (∀ k < 32, (a ^^^ b).getLsbD k = (a.getLsbD k ^^ b.getLsbD k)) := by simp

theorem test_witness_LogicImmediatesWriteEachBit (a : Word) (m : BitVec 12) :
    (∀ k < 32, (a &&& m.setWidth 32).getLsbD k = (a.getLsbD k && m.getLsbD k)) ∧
    (∀ k < 32, (a ||| m.setWidth 32).getLsbD k = (a.getLsbD k || m.getLsbD k)) ∧
    (∀ k < 32, (a ^^^ m.setWidth 32).getLsbD k = (a.getLsbD k ^^ m.getLsbD k)) := by
  refine ⟨?_, ?_, ?_⟩ <;> intro k hk <;> simp [hk]

theorem test_witness_NotAndNotiComplementEachBit (a : Word) : ∀ k < 32, (~~~a).getLsbD k = !a.getLsbD k := by
  intro k hk
  simp [hk]

theorem test_witness_CompAndCompiOrderTheirOperands :
    (regs 5 5).readReg 1 = (regs 5 5).readReg 2 ∧
    lessThan (regs 0x7FFFFFFF 0x80000000) ((regs 0x7FFFFFFF 0x80000000).readReg 2) ((regs 0x7FFFFFFF 0x80000000).readReg 1) ∧
    lessThan (regs 4 5) ((regs 4 5).readReg 1) ((regs 4 5).readReg 2) ∧ (regs 0xFFF 0).readReg 1 = imm12Value (regs 0xFFF 0) 0xFFF ∧
    lessThan (regs 0x1000 0) (imm12Value (regs 0x1000 0) 0xFFF) ((regs 0x1000 0).readReg 1) ∧
    lessThan (regs 0x80000000 0) ((regs 0x80000000 0).readReg 1) (imm12Value (regs 0x80000000 0) 0) :=
  ⟨by decide, (lessThan_signed rfl).2 (by decide), (lessThan_signed rfl).2 (by decide), by decide,
    (lessThan_signed rfl).2 (by decide), (lessThan_signed rfl).2 (by decide)⟩

/-- The address of the loads and the stores on each side of each alignment. -/
theorem test_witness_LoadsReadBigEndianAndZeroExtend :
    (∀ a n, Backed start a n) ∧ start.readReg 0 + imm14Value start 0 = 0 ∧
    (start.readReg 0 + imm14Value start 0x3ffc).toNat % 4 = 0 ∧ (start.readReg 0 + imm14Value start 0x3fff).toNat % 4 ≠ 0 ∧
    (start.readReg 0 + imm14Value start 0x3ffe).toNat % 2 = 0 ∧ (start.readReg 0 + imm14Value start 0x3fff).toNat % 2 ≠ 0 :=
  ⟨fun a n => backed_of_nothing_unbacked a n rfl, by decide, by decide, by decide, by decide, by decide⟩

theorem test_witness_StoresWriteBigEndianAndNothingElse :
    (∀ a n, Backed start a n) ∧ (effectiveAddr start 0 0x3ffc).toNat % 4 = 0 ∧ (effectiveAddr start 0 1).toNat % 4 ≠ 0 ∧
    (effectiveAddr start 0 2).toNat % 2 = 0 ∧ (effectiveAddr start 0 0x3fff).toNat % 2 ≠ 0 :=
  ⟨fun a n => backed_of_nothing_unbacked a n rfl, by decide, by decide, by decide, by decide⟩

/-- `start` with one data byte that the platform does not back. -/
def holed (a : Nat) : State := { start with cfg := { start.cfg with unbacked := [⟨a, 1⟩] } }

theorem holed_not_backed (a : Word) (n k : Nat) (hk : k < n) : ¬Backed (holed (a + BitVec.ofNat 32 k).toNat) a n := by
  intro h
  exact h k hk _ (List.mem_singleton.2 rfl) ⟨Nat.le_refl _, Nat.lt_succ_self _⟩

theorem test_witness_UnbackedAccessIsStuck :
    effectiveAddr (holed 0x1003) 0 0x1000 = 0x1000 ∧ (0x1000 : Word).toNat % 4 = 0 ∧ (0x1000 : Word).toNat % 2 = 0 ∧
    ¬Backed (holed 0x1003) 0x1000 4 ∧ ¬Backed (holed 0x1002) 0x1000 3 ∧ ¬Backed (holed 0x1001) 0x1000 2 ∧
    ¬Backed (holed 0x1000) 0x1000 1 :=
  ⟨by decide, by decide, by decide, holed_not_backed 0x1000 4 3 (by decide), holed_not_backed 0x1000 3 2 (by decide),
    holed_not_backed 0x1000 2 1 (by decide), holed_not_backed 0x1000 1 0 (by decide)⟩

/-- The store's address, and the last address that each of the four clauses reads. -/
theorem test_witness_LoadsReadBackWhatStoresWrote :
    let after := fun (i : Instr) (off : BitVec 14) (k : Nat) (imm : BitVec 14) => passes (exec i start) fun t =>
      !t.halted && decide ((effectiveAddr t 0 off - effectiveAddr start 0 imm).toNat = k)
    after (.sw 2 0x1ffc 0) 0x1ffc 0 0x1ffc = true ∧ after (.sw 2 0x1ffc 0) 0x1ffe 2 0x1ffc = true ∧
    after (.sw 2 0x1ffc 0) 0x1fff 3 0x1ffc = true ∧ after (.sth 2 0x3ffc 0) 0x3ffe 2 0x3ffc = true ∧
    after (.sh 2 0x3ffe 0) 0x3fff 1 0x3ffe = true ∧ after (.sb 2 0x3fff 0) 0x3fff 0 0x3fff = true := by decide

theorem test_witness_EqualityBranches :
    (regs 5 5).readReg 1 = (regs 5 5).readReg 2 ∧ (regs 5 6).readReg 1 ≠ (regs 5 6).readReg 2 := by decide

theorem test_witness_OrderBranches :
    lessThan (regs 5 6) ((regs 5 6).readReg 1) ((regs 5 6).readReg 2) ∧
    ¬lessThan (regs 5 5) ((regs 5 5).readReg 1) ((regs 5 5).readReg 2) ∧
    lessThan (regs 0 0xFFFFFFFF) ((regs 0 0xFFFFFFFF).readReg 2) ((regs 0 0xFFFFFFFF).readReg 1) :=
  ⟨(lessThan_signed rfl).2 (by decide), fun h => absurd ((lessThan_signed rfl).1 h) (by decide),
    (lessThan_signed rfl).2 (by decide)⟩

theorem test_witness_CallMacroReachesItsLabel :
    start.cfg.liUpperLow = .zero ∧ (start.regs.readGp 22).toNat % 2 ^ 16 = 0 ∧
      expandCall 0xFFFFFFFC = [.lui 22 0xFFFF, .jrl 0xFFFC 22] := by decide

theorem test_witness_AcceptedSyscallEntersTheRoutine :
    (atLevel 4 0).sysctpValid = true ∧ (atLevel 4 0).cfg.syscallTable.lookup 9 = some ⟨0x3000, 4, 5⟩ ∧
      (4 : BitVec 3).toNat ≤ (atLevel 4 0).pml.toNat := by decide

theorem test_witness_RejectedSyscallClearsPemaAndRaises :
    start.sysctpValid = false ∧ (atLevel 3 0).sysctpValid = true ∧ (atLevel 3 0).cfg.syscallTable.lookup 8 = none ∧
    (atLevel 3 0).cfg.syscallTable.lookup 9 = some ⟨0x3000, 4, 5⟩ ∧ (atLevel 3 0).pml.toNat < (4 : BitVec 3).toNat := by decide

theorem test_witness_SysretRestoresTheCaller :
    (start.setBank .sys).bank = .sys ∧ (start.setBank .sys).cfg.hasPml = true ∧ start.bank = .gp ∧
    ({ start with cfg := { start.cfg with hasPml := false } } : State).cfg.hasPml = false := by decide

/-- With `u` the state `t` itself. -/
theorem test_witness_SyscallThenSysretReturnsToTheCaller :
    (atLevel 0 0).bank = .gp ∧ ∃ t, exec (.syscall 7) (atLevel 0 0) = .next t ∧ t.halted = false ∧ t.bank = .sys :=
  ⟨rfl, (of_passes (check := fun t => !t.halted && t.bank == .sys) (by decide)).imp fun _ h =>
    ⟨h.1, by simpa using h.2⟩⟩

theorem test_witness_StatIsReadWholeAndWrittenInTwoBits :
    2 ≤ (atLevel 2 3).pml.toNat ∧ ((atLevel 2 0xFFFFFF03).readReg 5).toNat % 256 < 4 ∧
    4 ≤ ((atLevel 2 4).readReg 5).toNat % 256 := by decide

theorem test_witness_PointerAndProcessRegistersReadAndWrite :
    3 ≤ (atLevel 3 0).pml.toNat ∧ 4 ≤ (atLevel 4 0).pml.toNat := by decide

theorem test_witness_AccessBelowTheLevelRaisesInsfpem :
    (∀ p ∈ [(0x02, 2), (0x04, 3), (0x08, 4), (0x0c, 2), (0x10, 3), (0x12, 3)],
      (atLevel (BitVec.ofNat 3 (p.2 - 1)) 0).pml.toNat < p.2 ∧ p.1 < 256) ∧ (atLevel 2 0).pml.toNat < 3 := by decide

theorem test_witness_UintenAndUnknownRegisters :
    2 ≤ (atLevel 2 0).pml.toNat ∧ (0x03 : BitVec 8).toNat ∉ [0x00, 0x01, 0x02, 0x04, 0x08, 0x0c, 0x10, 0x12] ∧
    (0xff : BitVec 8).toNat ∉ [0x00, 0x01, 0x02, 0x04, 0x08, 0x0c, 0x10, 0x12] := by decide

theorem test_witness_SyncOnlyAdvances : start.cfg.unifiedMemory = false ∧ unified.cfg.unifiedMemory = true := by decide

theorem test_witness_LockTakesAFreeAddress :
    (start.readReg 0).toNat ∉ start.locks ∧ ((start.setLocks [0]).readReg 0).toNat ∈ (start.setLocks [0]).locks := by decide

theorem test_witness_TestReportsWhatLockWould : ∃ t, exec (.lock 6 5) start = .next t :=
  (of_passes (check := fun _ => true) (by decide)).imp fun _ h => h.1

/-- `atLevel`, with a grant from level 3 to level 5. -/
def granting : State := { atLevel 3 0 with cfg := { start.cfg with pmirGrants := [(3, 5)] } }

theorem test_witness_PmirRaisesOnlyToAGrantedLevel :
    ({ start with cfg := { start.cfg with hasPml := false } } : State).cfg.hasPml = false ∧ granting.cfg.hasPml = true ∧
    7 < (8 : BitVec 8).toNat ∧ (3 : BitVec 8).toNat = granting.pml.toNat ∧ (2 : BitVec 8).toNat < granting.pml.toNat ∧
    granting.pml.toNat < (5 : BitVec 8).toNat ∧ (granting.pml, (5 : BitVec 8).setWidth 3) ∈ granting.cfg.pmirGrants ∧
    (granting.pml, (4 : BitVec 8).setWidth 3) ∉ granting.cfg.pmirGrants ∧ (7 : BitVec 8).toNat ≤ 7 := by decide

theorem test_pmir_with_a_grant :
    passes (exec (.pmir 5) granting) (fun t => t.pml == 5 && t.pc == 0x104) = true ∧
    passes (exec (.pmir 6) granting) (fun t => t.halted && t.pml == 3) = true := by decide

theorem test_witness_PmdLowersTheLevel :
    ({ start with cfg := { start.cfg with hasPml := false } } : State).cfg.hasPml = false ∧ start.cfg.hasPml = true ∧
    7 < (8 : BitVec 8).toNat ∧ (7 : BitVec 8).toNat ≤ start.pml.toNat ∧ (atLevel 3 0).pml.toNat < (4 : BitVec 8).toNat := by
  decide

theorem test_witness_ResetStartsAtTheVectorAtTheTopLevel :
    (applyReset { unified with cfg := { unified.cfg with hasPml := false } }).cfg.hasPml = false ∧
      (applyReset unified).cfg.unifiedMemory = true ∧ State.reset.cfg.unifiedMemory = false := by decide

theorem test_witness_EveryStepKeepsTheInvariant :
    Inv (start.withFetchWord 32 0x20000805) ∧ ∃ t, step (start.withFetchWord 32 0x20000805) = .next t :=
  ⟨by decide, (of_passes (check := fun _ => true) (by decide)).imp fun _ h => h.1⟩

theorem test_witness_ExceptionsArePrecise :
    (∃ t, step (start.setPc 2) = .next t ∧ t.halted = true) ∧
    ∃ t, step ((atLevel 7 0).withFetchWord 32 0x20000008) = .next t ∧ t.halted = true :=
  ⟨of_passes (by decide), of_passes (by decide)⟩

theorem test_witness_OnlyFourInstructionsChangeTheLevel :
    (atLevel 0 0).cfg.pmirGrants = [] ∧
      ∃ t, step ((atLevel 0 0).withFetchWord 32 0x20000007) = .next t ∧ (t.pml == 3) = true :=
  ⟨rfl, of_passes (by decide)⟩

/-- A write of GINE, of OPCARP and of CPIDTP, each at its level. -/
theorem test_witness_SystemRegistersChangeOnlyAtTheirLevel :
    (∃ t, step ((atLevel 2 2).withFetchWord 32 0x20050202) = .next t ∧ t.stat.gine = true) ∧
    (∃ t, step ((atLevel 3 9).withFetchWord 32 0x20050204) = .next t ∧ (t.spr.opcarp == 9) = true) ∧
    ∃ t, step ((atLevel 4 9).withFetchWord 32 0x20050208) = .next t ∧ (t.spr.cpidtp == 9) = true :=
  ⟨of_passes (by decide), of_passes (by decide), of_passes (by decide)⟩

theorem test_witness_FlagsChangeOnlyInTheAluFamilies :
    start.cfg.ovOther = .unchanged ∧ start.stat.ov = false ∧ start.stat.z = false ∧
      ∃ t, step ((regs 0xFFFFFFFF 1).withFetchWord 32 0x04611000) = .next t ∧ (t.stat.ov && t.stat.z) = true :=
  ⟨rfl, rfl, rfl, of_passes (by decide)⟩

/-- A jump, the ROI slot and the CPMI slot. -/
theorem test_witness_ControlLeavesTheSequenceOnlyAsListed :
    (∃ t, step (start.withFetchWord 32 0x18000100) = .next t ∧ (!t.halted && t.pc == 0x200) = true) ∧
    (∃ t, step ((((regs 0 0).setEnables true false).setSpr { start.spr with uinten := 2 }).withFetchWord 32 0x0c600011) = .next t ∧
      (!t.halted && t.pc == 0x10) = true) ∧
    ∃ t, step (((start.setEnables true true).setSpr { start.spr with uinten := 1 }).withFetchWord 32 0x80000000) = .next t ∧
      (!t.halted && t.pc == 8) = true :=
  ⟨of_passes (by decide), of_passes (by decide), of_passes (by decide)⟩

theorem test_witness_LocksAreNeverReleased :
    ∃ t, step ((start.setLocks [7]).withFetchWord 32 0x20c50500) = .next t ∧ (t.locks == [0, 7]) = true :=
  of_passes (by decide)

theorem test_witness_ProgramAndParametersNeverChange :
    start.cfg.unifiedMemory = false ∧
      ∃ t, step ((regs 0x1000 1).withFetchWord 32 0x68011000) = .next t ∧ (t.dmem != []) = true :=
  ⟨rfl, of_passes (by decide)⟩

theorem test_witness_UnprivilegedInstructionsIgnoreTheLevel :
    (∀ rsa a, Instr.sysret ≠ .stspr rsa a) ∧ (∀ rd a, Instr.sysret ≠ .ldspr rd a) ∧ (∀ n, Instr.sysret ≠ .syscall n) ∧
    (∀ n, Instr.sysret ≠ .pmir n) ∧ ∀ n, Instr.sysret ≠ .pmd n := by simp

theorem test_witness_NoInstructionReadsGlbregf :
    start.cfg.liUpperLow = .zero ∧ ∃ t, exec (.lgi 0 1) start = .next t ∧ (t.regs.glb != start.regs.glb) = true :=
  ⟨rfl, of_passes (by decide)⟩

end Sys2Proof.Tests
end

section
/-!
PROOFS. The Integer family: addu and subu (40_integer R144, R145), and, or, xor (R147 to R149). A lemma per way of ending and
a lemma for the decoding of a three-register word carry what the instructions share.
-/

namespace Sys2Proof.Machine

/-! ## Decoding -/

/-- The Integer words whose three registers are operands at every value of shft (30_encoding R104, R119). -/
theorem decodesTo_threeRegister {aluop : BitVec 4} {make : RegNum → RegNum → RegNum → Instr} (rd rsa rsb : RegNum)
    (shft : BitVec 7)
    (h : ∀ w, aluopField w = aluop → decodeInteger w = .ok (make (rdField w) (rsaField w) (rsbField w))) :
    DecodesTo (0b000001#6 ++ rd ++ rsa ++ rsb ++ shft ++ aluop) (make rd rsa rsb) := by
  apply decodesTo_integer
  rw [h _ (aluopField_integer ..), rdField_integer, rsaField_integer, rsbField_integer]

theorem decodesTo_addu (rd rsa rsb : RegNum) (shft : BitVec 7) :
    DecodesTo (0b000001#6 ++ rd ++ rsa ++ rsb ++ shft ++ 0x2#4) (.addu rd rsa rsb) :=
  decodesTo_threeRegister rd rsa rsb shft fun w hw => by simp [decodeInteger, hw]

theorem decodesTo_subu (rd rsa rsb : RegNum) (shft : BitVec 7) :
    DecodesTo (0b000001#6 ++ rd ++ rsa ++ rsb ++ shft ++ 0x3#4) (.subu rd rsa rsb) :=
  decodesTo_threeRegister rd rsa rsb shft fun w hw => by simp [decodeInteger, hw]

theorem decodesTo_and (rd rsa rsb : RegNum) (shft : BitVec 7) :
    DecodesTo (0b000001#6 ++ rd ++ rsa ++ rsb ++ shft ++ 0x5#4) (.and rd rsa rsb) :=
  decodesTo_threeRegister rd rsa rsb shft fun w hw => by simp [decodeInteger, hw]

theorem decodesTo_or (rd rsa rsb : RegNum) (shft : BitVec 7) :
    DecodesTo (0b000001#6 ++ rd ++ rsa ++ rsb ++ shft ++ 0x6#4) (.or rd rsa rsb) :=
  decodesTo_threeRegister rd rsa rsb shft fun w hw => by simp [decodeInteger, hw]

theorem decodesTo_xor (rd rsa rsb : RegNum) (shft : BitVec 7) :
    DecodesTo (0b000001#6 ++ rd ++ rsa ++ rsb ++ shft ++ 0x7#4) (.xor rd rsa rsb) :=
  decodesTo_threeRegister rd rsa rsb shft fun w hw => by simp [decodeInteger, hw]

/-! ## Meanings -/

theorem exec_addu (rd rsa rsb : RegNum) (s : State) :
    exec (.addu rd rsa rsb) s = .next (finishKeepOv rd (s.readReg rsa + s.readReg rsb) s) := rfl

theorem exec_subu (rd rsa rsb : RegNum) (s : State) :
    exec (.subu rd rsa rsb) s = .next (finishKeepOv rd (s.readReg rsa - s.readReg rsb) s) := rfl

theorem exec_and (rd rsa rsb : RegNum) (s : State) :
    exec (.and rd rsa rsb) s = .next (finishOther rd (s.readReg rsa &&& s.readReg rsb) s) := rfl

theorem exec_or (rd rsa rsb : RegNum) (s : State) :
    exec (.or rd rsa rsb) s = .next (finishOther rd (s.readReg rsa ||| s.readReg rsb) s) := rfl

theorem exec_xor (rd rsa rsb : RegNum) (s : State) :
    exec (.xor rd rsa rsb) s = .next (finishOther rd (s.readReg rsa ^^^ s.readReg rsb) s) := rfl

/-! ## From the way of ending to the answer -/

/-- An instruction that ends without writing OV answers with OV as it was (40_integer R144). -/
theorem aluAnswer_of_finishKeepOv {i : Instr} {rd : RegNum} {r : Word} {s : State}
    (h : exec i s = .next (finishKeepOv rd r s)) : AluAnswer i rd r s.stat.ov (s.pc + 4) s :=
  aluAnswer_of_exec _ _ _ _ _ _ (h.trans (by rw [finishKeepOv_eq]))

/-- A logic, shift or compare instruction answers with OV as `OV_OTHER` says (40_integer R140). -/
theorem aluAnswer_of_finishOther {i : Instr} {rd : RegNum} {r : Word} {s : State}
    (h : exec i s = .next (finishOther rd r s)) : AluAnswer i rd r (ovOtherValue s) (s.pc + 4) s :=
  aluAnswer_of_exec _ _ _ _ _ _ (h.trans (by rw [finishOther_eq]))

/-- The same for a result known by its bits. -/
theorem aluAnswer_of_finishOther_bits {i : Instr} {rd : RegNum} {v r : Word} {s : State}
    (h : exec i s = .next (finishOther rd v s)) (hr : ∀ k < 32, r.getLsbD k = v.getLsbD k) :
    AluAnswer i rd r (ovOtherValue s) (s.pc + 4) s := by
  obtain rfl : r = v := BitVec.eq_of_getLsbD_eq hr
  exact aluAnswer_of_finishOther h

/-! ## The obligations -/

/-- Settles O15: both instructions end without writing OV, and their results are the sum and the difference modulo 2^32. -/
theorem adduAndSubuLeaveOv : Obligations.AdduAndSubuLeaveOv := by
  intro s rd rsa rsb
  refine ⟨decodesTo_addu rd rsa rsb, decodesTo_subu rd rsa rsb, ?addu, ?subu⟩
  case addu =>
    rw [← BitVec.add_def]
    exact aluAnswer_of_finishKeepOv (exec_addu rd rsa rsb s)
  case subu =>
    rw [← sub_eq_ofInt]
    exact aluAnswer_of_finishKeepOv (exec_subu rd rsa rsb s)

/-- Settles O17: a word with the bits of the premise is the result that the instruction writes. -/
theorem logicInstructionsWriteEachBit : Obligations.LogicInstructionsWriteEachBit := by
  intro s rd rsa rsb shft
  refine ⟨decodesTo_and rd rsa rsb shft, decodesTo_or rd rsa rsb shft, decodesTo_xor rd rsa rsb shft,
    fun r hr => ?and, fun r hr => ?or, fun r hr => ?xor⟩
  case and => exact aluAnswer_of_finishOther_bits (exec_and rd rsa rsb s) fun k hk => by rw [hr k hk, BitVec.getLsbD_and]
  case or => exact aluAnswer_of_finishOther_bits (exec_or rd rsa rsb s) fun k hk => by rw [hr k hk, BitVec.getLsbD_or]
  case xor => exact aluAnswer_of_finishOther_bits (exec_xor rd rsa rsb s) fun k hk => by rw [hr k hk, BitVec.getLsbD_xor]

end Sys2Proof.Machine
end

section
/-!
PROOFS. The Branch family: beq and bne (44_branch_jump R222, R223). A lemma for the decoding of a branch word with its split
offset and a lemma for each way a branch can go carry what the two instructions share.
-/

namespace Sys2Proof.Machine

/-! ## Decoding -/

/-- A branch word: the two pieces of its offset are put together again (30_encoding R110, R119). -/
theorem decodesTo_splitOffset {funct : BitVec 2} {make : RegNum → RegNum → BitVec 14 → Instr} (rsa rsb : RegNum)
    (imm : BitVec 14)
    (h : ∀ w, branchFunct w = funct → decodeBranch w = .ok (make (rsaField w) (rsbField w) (branchImm w))) :
    DecodesTo (0b000101#6 ++ imm.extractLsb' 9 5 ++ rsa ++ rsb ++ imm.extractLsb' 0 9 ++ funct) (make rsa rsb imm) := by
  apply decodesTo_branch
  rw [h _ (branchFunct_branch ..), rsaField_branch, rsbField_branch, branchImm_branch, extractLsb'_join (m := 5) (n := 9)]

theorem decodesTo_beq (rsa rsb : RegNum) (imm : BitVec 14) :
    DecodesTo (0b000101#6 ++ imm.extractLsb' 9 5 ++ rsa ++ rsb ++ imm.extractLsb' 0 9 ++ 0b00#2) (.beq rsa rsb imm) :=
  decodesTo_splitOffset rsa rsb imm fun w hw => by simp [decodeBranch, hw]

theorem decodesTo_bne (rsa rsb : RegNum) (imm : BitVec 14) :
    DecodesTo (0b000101#6 ++ imm.extractLsb' 9 5 ++ rsa ++ rsb ++ imm.extractLsb' 0 9 ++ 0b01#2) (.bne rsa rsb imm) :=
  decodesTo_splitOffset rsa rsb imm fun w hw => by simp [decodeBranch, hw]

/-! ## Meanings -/

theorem exec_beq (rsa rsb : RegNum) (imm : BitVec 14) (s : State) :
    exec (.beq rsa rsb imm) s = .next (branch (s.readReg rsa == s.readReg rsb) imm s) := rfl

theorem exec_bne (rsa rsb : RegNum) (imm : BitVec 14) (s : State) :
    exec (.bne rsa rsb imm) s = .next (branch (s.readReg rsa != s.readReg rsb) imm s) := rfl

/-! ## The two ways a branch can go -/

/-- The condition holds: `pc` plus the sign-extended offset (44_branch_jump R220). -/
theorem jumpAnswer_of_branch_taken {i : Instr} {c : Bool} {imm : BitVec 14} {s : State}
    (h : exec i s = .next (branch c imm s)) (hc : c = true) : JumpAnswer i (s.pc + BitVec.ofInt 32 imm.toInt) s :=
  jumpAnswer_of_branch i c imm s _ h (if_pos hc)

/-- The condition fails: the next instruction (44_branch_jump R220). -/
theorem jumpAnswer_of_branch_notTaken {i : Instr} {c : Bool} {imm : BitVec 14} {s : State}
    (h : exec i s = .next (branch c imm s)) (hc : ¬c = true) : JumpAnswer i (s.pc + 4) s :=
  jumpAnswer_of_branch i c imm s _ h (if_neg hc)

/-! ## The obligation -/

/-- Settles O29: equal registers take beq and pass bne, unequal ones pass beq and take bne. -/
theorem equalityBranches : Obligations.EqualityBranches := by
  intro s rsa rsb imm
  refine ⟨decodesTo_beq rsa rsb imm, decodesTo_bne rsa rsb imm, fun heq => ⟨?beqTaken, ?bneNot⟩,
    fun hne => ⟨?beqNot, ?bneTaken⟩⟩
  case beqTaken => exact jumpAnswer_of_branch_taken (exec_beq rsa rsb imm s) (beq_iff_eq.2 heq)
  case bneNot => exact jumpAnswer_of_branch_notTaken (exec_bne rsa rsb imm s) fun h => bne_iff_ne.1 h heq
  case beqNot => exact jumpAnswer_of_branch_notTaken (exec_beq rsa rsb imm s) fun h => hne (beq_iff_eq.1 h)
  case bneTaken => exact jumpAnswer_of_branch_taken (exec_bne rsa rsb imm s) (bne_iff_ne.2 hne)

end Sys2Proof.Machine
end

section
/-!
PROOFS. The macro `ret` (46_macros R271): the general jr word and the general jr, taken at no offset through RA.
-/

namespace Sys2Proof.Machine

/-! ## jr in general -/

/-- A word of opcode 000110 with a base other than $R0 is jr, its split offset put together again (30_encoding R123). -/
theorem decodesTo_jr (rsa : RegNum) (imm : BitVec 21) (h : rsa ≠ 0) :
    DecodesTo (0b000110#6 ++ imm.extractLsb' 16 5 ++ rsa ++ imm.extractLsb' 0 16) (.jr imm rsa) := by
  apply decodesTo_jump
  rw [decodeJump, rsaField_jump, jumpImm_jump, extractLsb'_join (m := 5) (n := 16), if_neg h]

theorem exec_jr (imm : BitVec 21) (rsa : RegNum) (s : State) :
    exec (.jr imm rsa) s = .next (s.setPc (registerTarget s imm rsa)) := rfl

theorem registerTarget_zero (s : State) (rsa : RegNum) : registerTarget s 0 rsa = s.readReg rsa := by
  simp [registerTarget]

/-- jr with no offset goes to the address in its base register (44_branch_jump R221, R228). -/
theorem jumpAnswer_jr_zero (rsa : RegNum) (s : State) : JumpAnswer (.jr 0 rsa) (s.readReg rsa) s := by
  rw [JumpAnswer, exec_jr, registerTarget_zero, State.setPc]

/-! ## The obligation -/

/-- The word of `ret` has the fields of jr with offset 0 and base RA. -/
theorem decodesTo_ret : DecodesTo 0x18040000 (.jr 0 4) := by
  have fields : (0x18040000 : Word) =
      0b000110#6 ++ (0 : BitVec 21).extractLsb' 16 5 ++ (4 : RegNum) ++ (0 : BitVec 21).extractLsb' 0 16 := by decide
  rw [fields]
  exact decodesTo_jr 4 0 (by decide)

/-- Settles O34: the one instruction of `ret` is jr with offset 0 and base 4, which goes to what register 4 holds. -/
theorem retMacroJumpsThroughRa : Obligations.RetMacroJumpsThroughRa := fun s =>
  ⟨.jr 0 4, rfl, decodesTo_ret, jumpAnswer_jr_zero 4 s⟩

end Sys2Proof.Machine
end

section
/-!
PROOFS. Decoding and encoding (30_encoding R119 to R124): the fields of an encoded word, the word back to its instruction under
both opcode maps, and the well-formedness of what a word decodes to.
-/

namespace Sys2Proof

/-! ## The fields of an encoded word -/

@[simp] theorem aluopField_encodeInteger (c : Config) (rd rsa rsb : RegNum) (aluop : BitVec 4) :
    aluopField (encodeInteger c rd rsa rsb aluop) = aluop := aluopField_integer ..
@[simp] theorem shftField_encodeInteger (c : Config) (rd rsa rsb : RegNum) (aluop : BitVec 4) :
    shftField (encodeInteger c rd rsa rsb aluop) = 0 := shftField_integer ..
@[simp] theorem rdField_encodeInteger (c : Config) (rd rsa rsb : RegNum) (aluop : BitVec 4) :
    rdField (encodeInteger c rd rsa rsb aluop) = rd := rdField_integer ..
@[simp] theorem rsaField_encodeInteger (c : Config) (rd rsa rsb : RegNum) (aluop : BitVec 4) :
    rsaField (encodeInteger c rd rsa rsb aluop) = rsa := rsaField_integer ..
@[simp] theorem rsbField_encodeInteger (c : Config) (rd rsa rsb : RegNum) (aluop : BitVec 4) :
    rsbField (encodeInteger c rd rsa rsb aluop) = rsb := rsbField_integer ..

@[simp] theorem aluopField_encodeImmediate (c : Config) (rd rsa : RegNum) (imm : BitVec 12) (aluop : BitVec 4) :
    aluopField (encodeImmediate c rd rsa imm aluop) = aluop := aluopField_immediate ..
@[simp] theorem rdField_encodeImmediate (c : Config) (rd rsa : RegNum) (imm : BitVec 12) (aluop : BitVec 4) :
    rdField (encodeImmediate c rd rsa imm aluop) = rd := rdField_immediate ..
@[simp] theorem rsaField_encodeImmediate (c : Config) (rd rsa : RegNum) (imm : BitVec 12) (aluop : BitVec 4) :
    rsaField (encodeImmediate c rd rsa imm aluop) = rsa := rsaField_immediate ..
@[simp] theorem imm12Field_encodeImmediate (c : Config) (rd rsa : RegNum) (imm : BitVec 12) (aluop : BitVec 4) :
    imm12Field (encodeImmediate c rd rsa imm aluop) = imm := imm12Field_immediate ..

@[simp] theorem loadFunct_encodeLoad (c : Config) (rd rsa : RegNum) (funct : BitVec 2) (imm : BitVec 14) :
    loadFunct (encodeLoad c rd rsa funct imm) = funct := loadFunct_load ..
@[simp] theorem rdField_encodeLoad (c : Config) (rd rsa : RegNum) (funct : BitVec 2) (imm : BitVec 14) :
    rdField (encodeLoad c rd rsa funct imm) = rd := rdField_load ..
@[simp] theorem rsaField_encodeLoad (c : Config) (rd rsa : RegNum) (funct : BitVec 2) (imm : BitVec 14) :
    rsaField (encodeLoad c rd rsa funct imm) = rsa := rsaField_load ..
@[simp] theorem loadImm_encodeLoad (c : Config) (rd rsa : RegNum) (funct : BitVec 2) (imm : BitVec 14) :
    loadImm (encodeLoad c rd rsa funct imm) = imm := loadImm_load ..

@[simp] theorem storeFunct_encodeStore (c : Config) (rsb rsa : RegNum) (funct : BitVec 2) (imm : BitVec 14) :
    storeFunct (encodeStore c rsb rsa funct imm) = funct := storeFunct_store ..
@[simp] theorem rsaField_encodeStore (c : Config) (rsb rsa : RegNum) (funct : BitVec 2) (imm : BitVec 14) :
    rsaField (encodeStore c rsb rsa funct imm) = rsa := rsaField_store ..
@[simp] theorem rsbField_encodeStore (c : Config) (rsb rsa : RegNum) (funct : BitVec 2) (imm : BitVec 14) :
    rsbField (encodeStore c rsb rsa funct imm) = rsb := rsbField_store ..
@[simp] theorem storeImm_encodeStore (c : Config) (rsb rsa : RegNum) (funct : BitVec 2) (imm : BitVec 14) :
    storeImm (encodeStore c rsb rsa funct imm) = imm :=
  (storeImm_store ..).trans (extractLsb'_join (m := 3) (n := 11) imm)

@[simp] theorem rdField_encodeLoadImmediate (c : Config) (rd dsel : RegNum) (imm : BitVec 16) :
    rdField (encodeLoadImmediate c rd dsel imm) = rd := rdField_loadImmediate ..
@[simp] theorem dselField_encodeLoadImmediate (c : Config) (rd dsel : RegNum) (imm : BitVec 16) :
    rsaField (encodeLoadImmediate c rd dsel imm) = dsel := rsaField_loadImmediate ..
@[simp] theorem imm16Field_encodeLoadImmediate (c : Config) (rd dsel : RegNum) (imm : BitVec 16) :
    imm16Field (encodeLoadImmediate c rd dsel imm) = imm := imm16Field_loadImmediate ..

@[simp] theorem branchFunct_encodeBranch (c : Config) (rsa rsb : RegNum) (imm : BitVec 14) (funct : BitVec 2) :
    branchFunct (encodeBranch c rsa rsb imm funct) = funct := branchFunct_branch ..
@[simp] theorem rsaField_encodeBranch (c : Config) (rsa rsb : RegNum) (imm : BitVec 14) (funct : BitVec 2) :
    rsaField (encodeBranch c rsa rsb imm funct) = rsa := rsaField_branch ..
@[simp] theorem rsbField_encodeBranch (c : Config) (rsa rsb : RegNum) (imm : BitVec 14) (funct : BitVec 2) :
    rsbField (encodeBranch c rsa rsb imm funct) = rsb := rsbField_branch ..
@[simp] theorem branchImm_encodeBranch (c : Config) (rsa rsb : RegNum) (imm : BitVec 14) (funct : BitVec 2) :
    branchImm (encodeBranch c rsa rsb imm funct) = imm :=
  (branchImm_branch ..).trans (extractLsb'_join (m := 5) (n := 9) imm)

@[simp] theorem rsaField_encodeJump (c : Config) (f : Format) (imm : BitVec 21) (rsa : RegNum) :
    rsaField (encodeJump c f imm rsa) = rsa := rsaField_jump ..
@[simp] theorem jumpImm_encodeJump (c : Config) (f : Format) (imm : BitVec 21) (rsa : RegNum) :
    jumpImm (encodeJump c f imm rsa) = imm :=
  (jumpImm_jump ..).trans (extractLsb'_join (m := 5) (n := 16) imm)

@[simp] theorem rdField_encodeSystem (c : Config) (rd rsa : RegNum) (funct imm : BitVec 8) :
    rdField (encodeSystem c rd rsa funct imm) = rd := rdField_system ..
@[simp] theorem rsaField_encodeSystem (c : Config) (rd rsa : RegNum) (funct imm : BitVec 8) :
    rsaField (encodeSystem c rd rsa funct imm) = rsa := rsaField_system ..
@[simp] theorem functField_encodeSystem (c : Config) (rd rsa : RegNum) (funct imm : BitVec 8) :
    functField (encodeSystem c rd rsa funct imm) = funct := functField_system ..
@[simp] theorem imm8Field_encodeSystem (c : Config) (rd rsa : RegNum) (funct imm : BitVec 8) :
    imm8Field (encodeSystem c rd rsa funct imm) = imm := imm8Field_system ..

/-! ## The word of an instruction decodes to it -/

/-- The encoder writes the opcode of the instruction's format (30_encoding R102, R103). -/
theorem opcodeField_encode (c : Config) (i : Instr) : opcodeField (encode c i) = opcode c i.format := by
  cases i
  case add | sub | addu | subu | not | and | or | xor | sal | sar | sll | slr | comp => exact opcodeField_integer ..
  case addi | subi | addui | subui | noti | andi | ori | xori | sali | sari | slli | slri | compi =>
    exact opcodeField_immediate ..
  case lw | lh | lth | lb => exact opcodeField_load ..
  case sw | sh | sth | sb => exact opcodeField_store ..
  case li | lsi | lgi | lui | lusi | lugi | lni | lnsi | lngi | luni | lunsi | lungi => exact opcodeField_loadImmediate ..
  case beq | bne | bgt | blt => exact opcodeField_branch ..
  case j | jal | jr | jrl => exact opcodeField_jump ..
  case syscall | sysret | stspr | ldspr | sync | lock | test | pmir | pmd => exact opcodeField_system ..

/-- Within its format, the fields that the encoder writes select the instruction and its operands (30_encoding R121). -/
theorem decodeFormat_encode (c : Config) (i : Instr) (h : i.wellFormed = true) :
    decodeFormat (encode c i) i.format = .ok i := by
  cases i
  case add | sub | addu | subu | not | and | or | xor | comp =>
    simp [encode, Instr.format, decodeFormat, decodeInteger]
  case sal | sar | sll | slr => simp [encode, Instr.format, decodeFormat, decodeInteger, decodeShift]
  case addi | subi | addui | subui | noti | andi | ori | xori | sali | sari | slli | slri | compi =>
    simp [encode, Instr.format, decodeFormat, decodeImmediate]
  case lw | lh | lth | lb => simp [encode, Instr.format, decodeFormat, decodeLoad]
  case sw | sh | sth | sb => simp [encode, Instr.format, decodeFormat, decodeStore]
  case li | lsi | lgi | lui | lusi | lugi | lni | lnsi | lngi | luni | lunsi | lungi =>
    simp [encode, Instr.format, decodeFormat, decodeLoadImmediate]
  case beq | bne | bgt | blt => simp [encode, Instr.format, decodeFormat, decodeBranch]
  case j => simp [encode, Instr.format, decodeFormat, decodeJump]
  case jal => simp [encode, Instr.format, decodeFormat, decodeJumpLink]
  case jr imm rsa =>
    have hr : rsa ≠ 0 := by simpa [Instr.wellFormed] using h
    simp only [encode, Instr.format, decodeFormat, decodeJump, rsaField_encodeJump, jumpImm_encodeJump, if_neg hr]
  case jrl imm rsa =>
    have hr : rsa ≠ 0 := by simpa [Instr.wellFormed] using h
    simp only [encode, Instr.format, decodeFormat, decodeJumpLink, rsaField_encodeJump, jumpImm_encodeJump, if_neg hr]
  case syscall | sysret | stspr | ldspr | sync | lock | test | pmir | pmd =>
    simp [encode, Instr.format, decodeFormat, decodeSystem]

/-- Settles O1: the opcode selects the format, and within it the fields give the instruction back. -/
theorem decodeOfEncodeIsTheInstruction : Obligations.DecodeOfEncodeIsTheInstruction := by
  intro c i h
  rw [decode_of_opcodeField c i.format _ (opcodeField_encode c i), decodeFormat_encode c i h]

/-! ## What a word decodes to -/

theorem decodeShift_wellFormed {w : Word} {make : RegNum → RegNum → RegNum → Instr} {i : Instr}
    (hm : ∀ rd rsa rsb, (make rd rsa rsb).wellFormed = true) (h : decodeShift w make = .ok i) : i.wellFormed = true := by
  unfold decodeShift at h
  split at h
  · cases h; exact hm ..
  · cases h

theorem decodeInteger_wellFormed {w : Word} {i : Instr} (h : decodeInteger w = .ok i) : i.wellFormed = true := by
  unfold decodeInteger at h
  split at h
  case h_9 | h_10 | h_11 | h_12 => exact decodeShift_wellFormed (fun _ _ _ => rfl) h
  all_goals (cases h <;> rfl)

theorem decodeImmediate_wellFormed {w : Word} {i : Instr} (h : decodeImmediate w = .ok i) : i.wellFormed = true := by
  unfold decodeImmediate at h
  split at h
  case h_5 =>
    split at h
    · cases h; rfl
    · cases h
  all_goals (cases h <;> rfl)

theorem decodeLoad_wellFormed {w : Word} {i : Instr} (h : decodeLoad w = .ok i) : i.wellFormed = true := by
  unfold decodeLoad at h
  split at h <;> cases h <;> rfl

theorem decodeStore_wellFormed {w : Word} {i : Instr} (h : decodeStore w = .ok i) : i.wellFormed = true := by
  unfold decodeStore at h
  split at h <;> cases h <;> rfl

theorem decodeLoadImmediate_wellFormed {w : Word} {i : Instr} (h : decodeLoadImmediate w = .ok i) :
    i.wellFormed = true := by
  unfold decodeLoadImmediate at h
  split at h <;> cases h <;> rfl

theorem decodeBranch_wellFormed {w : Word} {i : Instr} (h : decodeBranch w = .ok i) : i.wellFormed = true := by
  unfold decodeBranch at h
  split at h <;> cases h <;> rfl

/-- jr is decoded only where the base field is not 0 (30_encoding R123). -/
theorem decodeJump_wellFormed {w : Word} {i : Instr} (h : decodeJump w = .ok i) : i.wellFormed = true := by
  unfold decodeJump at h
  split at h
  · cases h; rfl
  · rename_i hr
    cases h
    exact bne_iff_ne.2 hr

/-- jrl is decoded only where the base field is not 0 (30_encoding R123). -/
theorem decodeJumpLink_wellFormed {w : Word} {i : Instr} (h : decodeJumpLink w = .ok i) : i.wellFormed = true := by
  unfold decodeJumpLink at h
  split at h
  · cases h; rfl
  · rename_i hr
    cases h
    exact bne_iff_ne.2 hr

theorem decodeSystem_wellFormed {w : Word} {i : Instr} (h : decodeSystem w = .ok i) : i.wellFormed = true := by
  unfold decodeSystem at h
  split at h <;> cases h <;> rfl

theorem decodeFormat_wellFormed {w : Word} {f : Format} {i : Instr} (h : decodeFormat w f = .ok i) :
    i.wellFormed = true := by
  cases f with
  | integer => exact decodeInteger_wellFormed h
  | loadImmediate => exact decodeLoadImmediate_wellFormed h
  | immediate => exact decodeImmediate_wellFormed h
  | branch => exact decodeBranch_wellFormed h
  | jump => exact decodeJump_wellFormed h
  | jumpLink => exact decodeJumpLink_wellFormed h
  | system => exact decodeSystem_wellFormed h
  | load => exact decodeLoad_wellFormed h
  | store => exact decodeStore_wellFormed h

/-- A word that decodes has the opcode of a format, and is decoded in it. -/
theorem decode_ok_format {c : Config} {w : Word} {i : Instr} (h : decode c w = .ok i) :
    ∃ f, formatOf c (opcodeField w) = some f ∧ decodeFormat w f = .ok i := by
  unfold decode at h
  split at h
  · cases h
  · split at h
    · rename_i f hf
      exact ⟨f, hf, h⟩
    · cases h

/-- Settles O2: each format decodes to well-formed instructions only. -/
theorem decodedInstructionsAreWellFormed : Obligations.DecodedInstructionsAreWellFormed := by
  intro c w i h
  obtain ⟨f, -, hf⟩ := decode_ok_format h
  exact decodeFormat_wellFormed hf

/-! ## Words of the test vectors -/

/-- Settles O3: eleven closed words. -/
theorem wordsOfTheTestVectorsDecode : Obligations.WordsOfTheTestVectorsDecode := by
  unfold Obligations.WordsOfTheTestVectorsDecode
  decide

end Sys2Proof
end

section
/-!
PROOFS. The words of the assembler decode to their instructions under the spec's opcode map, whatever the other parameters; and
the words that have ignored fields (30_encoding R120) do so at every value of these.
-/

namespace Sys2Proof.Machine

/-- The word of an instruction depends on the parameters through the opcodes only. -/
theorem encode_congr {c d : Config} (h : ∀ f, opcode c f = opcode d f) (i : Instr) : encode c i = encode d i := by
  cases i <;>
    simp only [encode, encodeInteger, encodeImmediate, encodeLoad, encodeStore, encodeLoadImmediate, encodeBranch,
      encodeJump, encodeSystem, h]

theorem opcode_of_s83 {c : Config} (h1 : c.opmap = .s83) (h2 : c.opcSys = .b001000) (f : Format) :
    opcode c f = opcode defaultConfig f := by
  cases f <;> simp [opcode, defaultConfig, h1, h2]

/-- The word that the assembler emits under the spec's opcode map. -/
theorem decodesTo_encode (i : Instr) (h : i.wellFormed = true) : DecodesTo (encode defaultConfig i) i := by
  intro c h1 h2
  rw [← encode_congr (opcode_of_s83 h1 h2) i]
  exact decodeOfEncodeIsTheInstruction c i h

/-- The Integer words of not ignore the twelve bits from ins[15] down (30_encoding R120). -/
theorem decodesTo_not (rd rsa : RegNum) (junk : BitVec 12) :
    DecodesTo (0b000001#6 ++ rd ++ rsa ++ junk ++ 0x4#4) (.not rd rsa) := by
  have split : (0b000001#6 ++ rd ++ rsa ++ junk ++ 0x4#4 : Word) =
      0b000001#6 ++ rd ++ rsa ++ junk.extractLsb' 7 5 ++ junk.extractLsb' 0 7 ++ 0x4#4 := by
    apply BitVec.eq_of_getLsbD_eq
    intro k hk
    simp only [BitVec.getLsbD_append, BitVec.getLsbD_extractLsb']
    interval_cases k <;> simp
  rw [split]
  apply decodesTo_integer
  simp [decodeInteger, aluopField_integer, rdField_integer, rsaField_integer]

theorem decodesTo_syscall (junk : BitVec 10) (n : BitVec 8) :
    DecodesTo (0b001000#6 ++ junk ++ 0x00#8 ++ n) (.syscall n) :=
  decodesTo_system_ignoring _ _ _ _ fun _ _ => by simp [decodeSystem, functField_system, imm8Field_system]

theorem decodesTo_sysret (junk : BitVec 10) (low : BitVec 8) :
    DecodesTo (0b001000#6 ++ junk ++ 0x01#8 ++ low) .sysret :=
  decodesTo_system_ignoring _ _ _ _ fun _ _ => by simp [decodeSystem, functField_system]

theorem decodesTo_stspr (junk rsa : RegNum) (a : BitVec 8) :
    DecodesTo (0b001000#6 ++ junk ++ rsa ++ 0x02#8 ++ a) (.stspr rsa a) :=
  decodesTo_system _ _ _ _ _ (by simp [decodeSystem, functField_system, rsaField_system, imm8Field_system])

theorem decodesTo_ldspr (rd junk : RegNum) (a : BitVec 8) :
    DecodesTo (0b001000#6 ++ rd ++ junk ++ 0x03#8 ++ a) (.ldspr rd a) :=
  decodesTo_system _ _ _ _ _ (by simp [decodeSystem, functField_system, rdField_system, imm8Field_system])

theorem decodesTo_sync (junk : BitVec 10) (low : BitVec 8) : DecodesTo (0b001000#6 ++ junk ++ 0x04#8 ++ low) .sync :=
  decodesTo_system_ignoring _ _ _ _ fun _ _ => by simp [decodeSystem, functField_system]

theorem decodesTo_lock (rd rsa : RegNum) (low : BitVec 8) :
    DecodesTo (0b001000#6 ++ rd ++ rsa ++ 0x05#8 ++ low) (.lock rd rsa) :=
  decodesTo_system _ _ _ _ _ (by simp [decodeSystem, functField_system, rdField_system, rsaField_system])

theorem decodesTo_test (rd rsa : RegNum) (low : BitVec 8) :
    DecodesTo (0b001000#6 ++ rd ++ rsa ++ 0x06#8 ++ low) (.test rd rsa) :=
  decodesTo_system _ _ _ _ _ (by simp [decodeSystem, functField_system, rdField_system, rsaField_system])

theorem decodesTo_pmir (junk : BitVec 10) (n : BitVec 8) : DecodesTo (0b001000#6 ++ junk ++ 0x07#8 ++ n) (.pmir n) :=
  decodesTo_system_ignoring _ _ _ _ fun _ _ => by simp [decodeSystem, functField_system, imm8Field_system]

theorem decodesTo_pmd (junk : BitVec 10) (n : BitVec 8) : DecodesTo (0b001000#6 ++ junk ++ 0x08#8 ++ n) (.pmd n) :=
  decodesTo_system_ignoring _ _ _ _ fun _ _ => by simp [decodeSystem, functField_system, imm8Field_system]

end Sys2Proof.Machine
end

section
/-!
PROOFS. The Integer and Immediate families: add, addi, sub, subi, addui, subui, not, the logic immediates, the shifts and the
comparisons. The ways of ending and the values of the rules are lemmas of Laws; a lemma per way of ending turns them into answers.
-/

namespace Sys2Proof.Machine

/-! ## Meanings -/

theorem exec_add (rd rsa rsb : RegNum) (s : State) : exec (.add rd rsa rsb) s =
    .next (finishArith rd (s.readReg rsa + s.readReg rsb) (addCarry (s.readReg rsa) (s.readReg rsb)) s) := rfl

theorem exec_addi (rd rsa : RegNum) (imm : BitVec 12) (s : State) : exec (.addi rd rsa imm) s =
    .next (finishArith rd (s.readReg rsa + imm12Value s imm) (addCarry (s.readReg rsa) (imm12Value s imm)) s) := by
  rw [← imm12Arith_eq]; rfl

theorem exec_sub (rd rsa rsb : RegNum) (s : State) : exec (.sub rd rsa rsb) s =
    .next (finishArith rd (s.readReg rsa - s.readReg rsb) (subBorrow (s.readReg rsa) (s.readReg rsb)) s) := rfl

theorem exec_subi (rd rsa : RegNum) (imm : BitVec 12) (s : State) : exec (.subi rd rsa imm) s =
    .next (finishArith rd (s.readReg rsa - imm12Value s imm) (subBorrow (s.readReg rsa) (imm12Value s imm)) s) := by
  rw [← imm12Arith_eq]; rfl

theorem exec_addui (rd rsa : RegNum) (imm : BitVec 12) (s : State) :
    exec (.addui rd rsa imm) s = .next (finishKeepOv rd (s.readReg rsa + imm12Value s imm) s) := by
  rw [← imm12Arith_eq]; rfl

theorem exec_subui (rd rsa : RegNum) (imm : BitVec 12) (s : State) :
    exec (.subui rd rsa imm) s = .next (finishKeepOv rd (s.readReg rsa - imm12Value s imm) s) := by
  rw [← imm12Arith_eq]; rfl

theorem exec_not (rd rsa : RegNum) (s : State) :
    exec (.not rd rsa) s = .next (finishOther rd (~~~s.readReg rsa) s) := rfl

theorem exec_noti (rd : RegNum) (imm : BitVec 12) (s : State) :
    exec (.noti rd imm) s = .next (finishOther rd (~~~imm12Value s imm) s) := by
  rw [← imm12Arith_eq]; rfl

theorem exec_andi (rd rsa : RegNum) (imm : BitVec 12) (s : State) :
    exec (.andi rd rsa imm) s = .next (finishOther rd (s.readReg rsa &&& imm.setWidth 32) s) := rfl

theorem exec_ori (rd rsa : RegNum) (imm : BitVec 12) (s : State) :
    exec (.ori rd rsa imm) s = .next (finishOther rd (s.readReg rsa ||| imm.setWidth 32) s) := rfl

theorem exec_xori (rd rsa : RegNum) (imm : BitVec 12) (s : State) :
    exec (.xori rd rsa imm) s = .next (finishOther rd (s.readReg rsa ^^^ imm.setWidth 32) s) := rfl

theorem exec_sal (rd rsa rsb : RegNum) (s : State) : exec (.sal rd rsa rsb) s =
    .next (finishOther rd (leftShiftValue s (s.readReg rsa) (s.readReg rsb).toNat) s) := by
  rw [← shiftLeft_eq]; rfl

theorem exec_sll (rd rsa rsb : RegNum) (s : State) : exec (.sll rd rsa rsb) s =
    .next (finishOther rd (leftShiftValue s (s.readReg rsa) (s.readReg rsb).toNat) s) := by
  rw [← shiftLeft_eq]; rfl

theorem exec_sar (rd rsa rsb : RegNum) (s : State) : exec (.sar rd rsa rsb) s =
    .next (finishOther rd (arithShiftValue s (s.readReg rsa) (s.readReg rsb).toNat) s) := by
  rw [← shiftRightArith_eq]; rfl

theorem exec_slr (rd rsa rsb : RegNum) (s : State) : exec (.slr rd rsa rsb) s =
    .next (finishOther rd (logicShiftValue s (s.readReg rsa) (s.readReg rsb).toNat) s) := by
  rw [← shiftRightLogic_eq]; rfl

theorem exec_sali (rd rsa : RegNum) (imm : BitVec 12) (s : State) :
    exec (.sali rd rsa imm) s = .next (finishOther rd (leftShiftValue s (s.readReg rsa) imm.toNat) s) := by
  rw [← shiftLeft_eq]; rfl

theorem exec_slli (rd rsa : RegNum) (imm : BitVec 12) (s : State) :
    exec (.slli rd rsa imm) s = .next (finishOther rd (leftShiftValue s (s.readReg rsa) imm.toNat) s) := by
  rw [← shiftLeft_eq]; rfl

theorem exec_sari (rd rsa : RegNum) (imm : BitVec 12) (s : State) :
    exec (.sari rd rsa imm) s = .next (finishOther rd (arithShiftValue s (s.readReg rsa) imm.toNat) s) := by
  rw [← shiftRightArith_eq]; rfl

theorem exec_slri (rd rsa : RegNum) (imm : BitVec 12) (s : State) :
    exec (.slri rd rsa imm) s = .next (finishOther rd (logicShiftValue s (s.readReg rsa) imm.toNat) s) := by
  rw [← shiftRightLogic_eq]; rfl

theorem exec_comp (rd rsa rsb : RegNum) (s : State) :
    exec (.comp rd rsa rsb) s = .next (finishOther rd (compare3 s (s.readReg rsa) (s.readReg rsb)) s) := rfl

theorem exec_compi (rd rsa : RegNum) (imm : BitVec 12) (s : State) :
    exec (.compi rd rsa imm) s = .next (finishOther rd (compare3 s (s.readReg rsa) (imm12Value s imm)) s) := by
  rw [← imm12Arith_eq]; rfl

/-! ## Carry and borrow -/

open Classical in
/-- An instruction that writes a carry or a borrow answers with the ROI slot where OV became 1 and ROI is enabled
(60_exceptions R322). -/
theorem aluAnswer_of_finishArith {i : Instr} {rd : RegNum} {r : Word} {p : Prop} [Decidable p] {s : State}
    (h : exec i s = .next (finishArith rd r (decide p) s)) :
    AluAnswer i rd r (decide p) (if RoiEnabled s ∧ p then 0x00000010 else s.pc + 4) s := by
  refine aluAnswer_of_exec _ _ _ _ _ _ (h.trans ?_)
  rw [finishArith_eq]
  simp only [roiEnabled_iff, decide_eq_true_eq, and_comm]

/-- Settles O13: the carry of a sum is the sum reaching 2^32. -/
theorem addAndAddiWriteSumZAndCarry : Obligations.AddAndAddiWriteSumZAndCarry := by
  intro s rd rsa rsb imm
  refine ⟨fun shft => decodesTo_threeRegister rd rsa rsb shft fun w hw => by simp [decodeInteger, hw],
    decodesTo_encode (.addi rd rsa imm) rfl, ?add, ?addi⟩
  case add =>
    rw [← BitVec.add_def]
    exact aluAnswer_of_finishArith (exec_add rd rsa rsb s)
  case addi =>
    rw [← BitVec.add_def]
    exact aluAnswer_of_finishArith (exec_addi rd rsa imm s)

/-- Settles O14: the borrow of a difference is the first operand below the second. -/
theorem subAndSubiWriteDifferenceZAndBorrow : Obligations.SubAndSubiWriteDifferenceZAndBorrow := by
  intro s rd rsa rsb imm
  refine ⟨fun shft => decodesTo_threeRegister rd rsa rsb shft fun w hw => by simp [decodeInteger, hw],
    decodesTo_encode (.subi rd rsa imm) rfl, ?sub, ?subi⟩
  case sub =>
    rw [← sub_eq_ofInt]
    exact aluAnswer_of_finishArith (exec_sub rd rsa rsb s)
  case subi =>
    rw [← sub_eq_ofInt]
    exact aluAnswer_of_finishArith (exec_subi rd rsa imm s)

/-- Settles O16: both instructions end without writing OV. -/
theorem adduiAndSubuiLeaveOv : Obligations.AdduiAndSubuiLeaveOv := by
  intro s rd rsa imm
  refine ⟨decodesTo_encode (.addui rd rsa imm) rfl, decodesTo_encode (.subui rd rsa imm) rfl, ?addui, ?subui⟩
  case addui =>
    rw [← BitVec.add_def]
    exact aluAnswer_of_finishKeepOv (exec_addui rd rsa imm s)
  case subui =>
    rw [← sub_eq_ofInt]
    exact aluAnswer_of_finishKeepOv (exec_subui rd rsa imm s)

/-! ## Bit by bit -/

/-- Settles O18: a word with the bits of the premise is the result, the operand being zero-extended. -/
theorem logicImmediatesWriteEachBit : Obligations.LogicImmediatesWriteEachBit := by
  intro s rd rsa imm
  refine ⟨decodesTo_encode (.andi rd rsa imm) rfl, decodesTo_encode (.ori rd rsa imm) rfl,
    decodesTo_encode (.xori rd rsa imm) rfl, fun r hr => ?andi, fun r hr => ?ori, fun r hr => ?xori⟩
  case andi => exact aluAnswer_of_finishOther_bits (exec_andi rd rsa imm s) fun k hk => by rw [hr k hk]; simp [hk]
  case ori => exact aluAnswer_of_finishOther_bits (exec_ori rd rsa imm s) fun k hk => by rw [hr k hk]; simp [hk]
  case xori => exact aluAnswer_of_finishOther_bits (exec_xori rd rsa imm s) fun k hk => by rw [hr k hk]; simp [hk]

/-- Settles O19: a word with the bits of the premise is the complement. -/
theorem notAndNotiComplementEachBit : Obligations.NotAndNotiComplementEachBit := by
  intro s rd rsa imm
  refine ⟨decodesTo_not rd rsa, decodesTo_encode (.noti rd imm) rfl, fun r hr => ?not, fun r hr => ?noti⟩
  case not => exact aluAnswer_of_finishOther_bits (exec_not rd rsa s) fun k hk => by rw [hr k hk]; simp [hk]
  case noti => exact aluAnswer_of_finishOther_bits (exec_noti rd imm s) fun k hk => by rw [hr k hk]; simp [hk]

/-! ## Shifts -/

/-- Settles O20: the left shifts are one operation, a product by a power of two. -/
theorem leftShiftsMultiplyByPowersOfTwo : Obligations.LeftShiftsMultiplyByPowersOfTwo := fun s rd rsa rsb imm =>
  ⟨decodesTo_encode (.sal rd rsa rsb) rfl, decodesTo_encode (.sll rd rsa rsb) rfl,
    decodesTo_encode (.sali rd rsa imm) rfl, decodesTo_encode (.slli rd rsa imm) rfl,
    aluAnswer_of_finishOther (exec_sal rd rsa rsb s), aluAnswer_of_finishOther (exec_sll rd rsa rsb s),
    aluAnswer_of_finishOther (exec_sali rd rsa imm s), aluAnswer_of_finishOther (exec_slli rd rsa imm s)⟩

/-- Settles O21: the right shifts are the floor of a quotient by a power of two. -/
theorem rightShiftsDivideByPowersOfTwo : Obligations.RightShiftsDivideByPowersOfTwo := fun s rd rsa rsb imm =>
  ⟨decodesTo_encode (.sar rd rsa rsb) rfl, decodesTo_encode (.slr rd rsa rsb) rfl,
    decodesTo_encode (.sari rd rsa imm) rfl, decodesTo_encode (.slri rd rsa imm) rfl,
    aluAnswer_of_finishOther (exec_sar rd rsa rsb s), aluAnswer_of_finishOther (exec_slr rd rsa rsb s),
    aluAnswer_of_finishOther (exec_sari rd rsa imm s), aluAnswer_of_finishOther (exec_slri rd rsa imm s)⟩

/-! ## Comparison -/

theorem compare3_self (s : State) (a : Word) : compare3 s a a = 0 := if_pos rfl

/-- The greater operand comes first: 1 (40_integer R154). -/
theorem compare3_of_greater {s : State} {a b : Word} (h : lessThan s b a) : compare3 s a b = 1 := by
  have hne : a ≠ b := fun e => lessThan_irrefl s b (e ▸ h)
  rw [compare3, if_neg hne, if_pos ((greater_iff s a b).2 h)]

/-- The less operand comes first: -1 (40_integer R154). -/
theorem compare3_of_less {s : State} {a b : Word} (h : lessThan s a b) : compare3 s a b = 0xFFFFFFFF := by
  have hne : a ≠ b := fun e => lessThan_irrefl s b (e ▸ h)
  have hng : ¬greater s a b = true := fun g => lessThan_asymm s a b h ((greater_iff s a b).1 g)
  rw [compare3, if_neg hne, if_neg hng]

/-- An instruction that ends with a comparison answers 0, 1 or -1 as its operands stand to each other. -/
theorem aluAnswers_of_compare3 {i : Instr} {rd : RegNum} {a b : Word} {s : State}
    (h : exec i s = .next (finishOther rd (compare3 s a b) s)) :
    (a = b → AluAnswer i rd 0x00000000 (ovOtherValue s) (s.pc + 4) s) ∧
    (lessThan s b a → AluAnswer i rd 0x00000001 (ovOtherValue s) (s.pc + 4) s) ∧
    (lessThan s a b → AluAnswer i rd 0xFFFFFFFF (ovOtherValue s) (s.pc + 4) s) := by
  have answer := aluAnswer_of_finishOther h
  refine ⟨fun he => ?_, fun hg => ?_, fun hl => ?_⟩
  · subst he; rwa [compare3_self] at answer
  · rwa [compare3_of_greater hg] at answer
  · rwa [compare3_of_less hl] at answer

/-- Settles O22: comp and compi end with the comparison of their operands. -/
theorem compAndCompiOrderTheirOperands : Obligations.CompAndCompiOrderTheirOperands := by
  intro s rd rsa rsb imm
  obtain ⟨heq, hgt, hlt⟩ := aluAnswers_of_compare3 (exec_comp rd rsa rsb s)
  refine ⟨fun shft => decodesTo_threeRegister rd rsa rsb shft fun w hw => by simp [decodeInteger, hw],
    decodesTo_encode (.compi rd rsa imm) rfl, heq, hgt, hlt, ?_⟩
  exact aluAnswers_of_compare3 (exec_compi rd rsa imm s)

end Sys2Proof.Machine
end

section
/-!
PROOFS. What every step keeps. Each statement is proved for the effects of `Did` by cases, and carried to the step by the
inversion `step_did`; the fetch exception and the CPMI slot are its two other cases.
-/

namespace Sys2Proof.Machine

/-- All that a step with a next state can be, the executed instruction by its effect. -/
theorem step_did {s t : State} (h : step s = .next t) :
    s.halted = false ∧
      (t = Raised .misaddr s.pc s ∨ (t = { s with pc := 0x00000008 } ∧ s.stat.spcp = true ∧ CpmiEnabled s) ∨
        ∃ i, executes s i ∧ Did i s t) := by
  obtain ⟨hrun, ⟨-, ht⟩ | ⟨hspcp, hen, ht⟩ | ⟨i, hx, hi⟩⟩ := step_cases h
  · exact ⟨hrun, .inl ht⟩
  · exact ⟨hrun, .inr (.inl ⟨ht, hspcp, hen⟩)⟩
  · exact ⟨hrun, .inr (.inr ⟨i, hx, exec_did hi⟩)⟩

/-! ## The invariant -/

theorem pml_ne_six {s : State} (h : s.stat.pml ≠ 6) : s.pml ≠ 6 := by
  unfold State.pml
  split
  · exact h
  · decide

theorem raisedLevel_ne_six {a b : BitVec 3} (ha : a ≠ 6) (hb : b ≠ 6) : raisedLevel a b ≠ 6 := by
  unfold raisedLevel
  split <;> assumption

/-- The low three bits of a level that exists are not the reserved one. -/
theorem setWidth_ne_six {n : BitVec 8} (h6 : n ≠ 6) (h7 : n.toNat ≤ 7) : n.setWidth 3 ≠ 6 := by
  intro h
  have hn := congrArg BitVec.toNat h
  have : n.toNat ≠ 6 := fun e => h6 (BitVec.eq_of_toNat_eq e)
  rw [BitVec.toNat_setWidth, show (6 : BitVec 3).toNat = 6 from rfl] at hn
  omega

theorem setPml_inv {s : State} {v : BitVec 3} (h : Inv s) (hv : v ≠ 6) : Inv (s.setPml v) := by
  obtain ⟨hcfg, himem, hdmem, hlocks, huns, hsep, hpml, hret⟩ := h
  rw [setPml_eq]
  refine ⟨hcfg, himem, hdmem, hlocks, huns, hsep, ?_, hret⟩
  show (if s.cfg.hasPml then v else s.stat.pml) ≠ 6
  split <;> assumption

/-- No effect of an instruction leaves the invariant. -/
theorem did_inv {i : Instr} {s t : State} (h : Inv s) (hd : Did i s t) : Inv t := by
  have hI := h
  obtain ⟨hcfg, himem, hdmem, hlocks, huns, hsep, hpml, hret⟩ := h
  cases hd with
  | stored ea v n =>
    refine ⟨hcfg, himem, writeBytes_wf _ _ _ _ hdmem, hlocks, ?unsynced, fun hu => ?separate, hpml, hret⟩
    case unsynced =>
      show addrSetWf (if _ then _ else _)
      split
      · exact insertAddrs_wf _ _ _ huns
      · exact huns
    case separate =>
      show (if s.cfg.unifiedMemory = true then _ else _) = _
      rw [hu]
      exact hsep hu
  | synced =>
    refine ⟨hcfg, himem, hdmem, hlocks, ?unsynced, fun hu => ?separate, hpml, hret⟩
    case unsynced =>
      show addrSetWf (if _ then _ else _)
      split
      · exact ⟨.nil, by simp⟩
      · exact huns
    case separate =>
      show (if s.cfg.unifiedMemory = true then _ else _) = _
      rw [hu]
      exact hsep hu
  | locked rd rsa => exact ⟨hcfg, himem, hdmem, insertAddr_wf _ _ hlocks (s.readReg rsa).isLt, huns, hsep, hpml, hret⟩
  | entered n e hi hv hl =>
    have hrun : e.runPml ≠ 6 := hcfg.2 (n, e) (by
      obtain ⟨l₁, l₂, htab, -⟩ := List.lookup_eq_some_iff.1 hl
      simp [htab])
    rw [enterSyscall_eq]
    refine ⟨hcfg, himem, hdmem, hlocks, huns, hsep, ?_, pml_ne_six hpml⟩
    show (if s.cfg.hasPml then raisedLevel s.pml e.runPml else s.stat.pml) ≠ 6
    split
    · exact raisedLevel_ne_six (pml_ne_six hpml) hrun
    · exact hpml
  | left =>
    exact setPml_inv (s := s.setBank .gp) hI hret
  | wroteSpr rsa a r =>
    rw [writeSpr_eq]
    refine ⟨hcfg, himem, hdmem, hlocks, huns, hsep, ?_, hret⟩
    show (if r = .stat then _ else s.stat : Stat).pml ≠ 6
    split <;> exact hpml
  | raisedLevel n hi hc h6 h7 => exact setPml_inv hI (setWidth_ne_six h6 h7)
  | loweredLevel n hi hc h6 h7 => exact setPml_inv hI (setWidth_ne_six h6 h7)
  | _ => exact hI

/-- Settles O51: neither an exception at the fetch nor the CPMI slot touches a field of the invariant. -/
theorem everyStepKeepsTheInvariant : Obligations.EveryStepKeepsTheInvariant := by
  intro s t hI h
  obtain ⟨-, rfl | ⟨rfl, -⟩ | ⟨i, -, hd⟩⟩ := step_did h
  · exact hI
  · exact hI
  · exact did_inv hI hd

/-- Settles O50: at reset every list is empty and every level is another one than 6. -/
theorem resetMeetsTheInvariant : Obligations.ResetMeetsTheInvariant := by
  unfold Obligations.ResetMeetsTheInvariant
  decide

end Sys2Proof.Machine
end

section
/-!
PROOFS. What the steps change, and which instruction it takes: precise exceptions, the permission level, the System Registers,
the flags, the sequence of addresses, the locks and the program. Each is read off the effects of `Did`, the fetch exception and
the CPMI slot.
-/

namespace Sys2Proof.Machine

/-! ## The fields that the updates of the permission level and of the System Registers leave -/

theorem setPml_pml (s : State) (v : BitVec 3) : (s.setPml v).pml = if s.cfg.hasPml then v else 7 := by
  rw [setPml_eq, State.pml]
  cases s.cfg.hasPml <;> rfl

@[simp] theorem advance_pml (s : State) : (advance s).pml = s.pml := rfl

theorem writeSpr_pml (v : Word) (s : State) (r : Spr) : (writeSpr v s r).pml = s.pml := by
  rw [writeSpr_eq]
  cases r <;> rfl

/-! ## Exceptions -/

/-- An instruction that halts the core raised one of the four exceptions, and only syscall changed more (60_exceptions R310). -/
theorem did_halted {i : Instr} {s t : State} (hd : Did i s t) (hrun : s.halted = false) (hh : t.halted = true) :
    ∃ e info, (e = .insfpem ∨ e = .misaddr ∨ e = .invsys ∨ e = .invpr) ∧
      (t = Raised e info s ∨ (∃ n, i = .syscall n) ∧ s.cfg.hasPml = true ∧
        t = Raised e info { s with stat := { s.stat with pema := false } }) := by
  cases hd with
  | raised e info he => exact ⟨e, info, by tauto, .inl rfl⟩
  | rejected n e info hi he =>
    refine ⟨e, info, by tauto, ?_⟩
    cases hp : s.cfg.hasPml
    · exact .inl (by simp [Raised])
    · exact .inr ⟨⟨n, hi⟩, rfl, by simp⟩
  | entered | left | wroteSpr | advanced | raisedLevel | loweredLevel =>
    simp [enterSyscall_eq, leaveSyscall_eq, writeSpr_eq, setPml_eq, advance_eq, hrun] at hh
  | _ => simp [hrun] at hh

/-- Settles O52: the fetch raises MISADDR with no other effect, and an instruction is as `did_halted` says. -/
theorem exceptionsArePrecise : Obligations.ExceptionsArePrecise := by
  intro s t h hh
  obtain ⟨hrun, rfl | ⟨rfl, -⟩ | ⟨i, hx, hd⟩⟩ := step_did h
  · exact ⟨.misaddr, s.pc, by simp, .inl rfl⟩
  · exact absurd hh (by simp [hrun])
  · obtain ⟨e, info, he, ht | ⟨⟨n, rfl⟩, hp, ht⟩⟩ := did_halted hd hrun hh
    · exact ⟨e, info, he, .inl ht⟩
    · exact ⟨e, info, he, .inr ⟨⟨n, hx⟩, hp, ht⟩⟩

/-! ## The permission level -/

/-- The instructions that can change the level, and how far pmir and pmd can (60_exceptions R332). -/
theorem did_pml {i : Instr} {s t : State} (hd : Did i s t) :
    t.pml = s.pml ∨ ((∃ n, i = .syscall n) ∨ i = .sysret) ∨
      (∃ n, i = .pmir n ∧ pmirGranted s.cfg s.pml (n.setWidth 3) = true) ∨
      ∃ n, i = .pmd n ∧ t.pml.toNat ≤ s.pml.toNat := by
  cases hd with
  | rejected n e info hi => exact .inr (.inl (.inl ⟨n, hi⟩))
  | entered n e hi => exact .inr (.inl (.inl ⟨n, hi⟩))
  | left hi => exact .inr (.inl (.inr hi))
  | wroteSpr => exact .inl (writeSpr_pml ..)
  | raisedLevel n hi hc h6 h7 hg => exact .inr (.inr (.inl ⟨n, hi, hg⟩))
  | loweredLevel n hi hc h6 h7 hl =>
    refine .inr (.inr (.inr ⟨n, hi, ?_⟩))
    rw [advance_pml, setPml_pml, if_pos hc, BitVec.toNat_setWidth]
    omega
  | _ => exact .inl rfl

/-- Settles O53: syscall and sysret aside, the level moves by a granted pmir, which an empty list of grants excludes, or by pmd,
which never raises it. -/
theorem onlyFourInstructionsChangeTheLevel : Obligations.OnlyFourInstructionsChangeTheLevel := by
  intro s t h
  obtain ⟨-, rfl | ⟨rfl, -⟩ | ⟨i, hx, hd⟩⟩ := step_did h
  · exact ⟨fun hne => absurd rfl hne, fun _ hlt => absurd hlt (lt_irrefl _)⟩
  · exact ⟨fun hne => absurd rfl hne, fun _ hlt => absurd hlt (lt_irrefl _)⟩
  · rcases did_pml hd with hsame | hcall | ⟨n, rfl, hg⟩ | ⟨n, rfl, hle⟩
    · exact ⟨fun hne => absurd hsame hne, fun _ hlt => absurd hlt (by rw [hsame]; exact lt_irrefl _)⟩
    · exact ⟨fun _ => ⟨i, hx, by tauto⟩, fun _ _ => ⟨i, hx, hcall⟩⟩
    · exact ⟨fun _ => ⟨_, hx, .inr (.inr (.inl ⟨n, rfl⟩))⟩, fun hnone => by simp [pmirGranted, hnone] at hg⟩
    · exact ⟨fun _ => ⟨_, hx, .inr (.inr (.inr ⟨n, rfl⟩))⟩, fun _ hlt => absurd hlt (by omega)⟩

/-! ## The System Registers -/

/-- GINE, SPCP and the other System Registers stay, or a stspr wrote one of them. -/
theorem did_sprs {i : Instr} {s t : State} (hd : Did i s t) :
    (t.stat.gine = s.stat.gine ∧ t.stat.spcp = s.stat.spcp ∧ t.spr = s.spr) ∨
      ∃ rsa a r, i = .stspr rsa a ∧ sprWriteLevel r ≤ s.pml.toNat ∧ t = advance (writeSpr (s.readReg rsa) s r) := by
  cases hd with
  | wroteSpr rsa a r hi ha hp => exact .inr ⟨rsa, a, r, hi, hp, rfl⟩
  | entered | left | raisedLevel | loweredLevel =>
    exact .inl (by simp [enterSyscall_eq, leaveSyscall_eq, setPml_eq, advance_eq])
  | _ => exact .inl ⟨rfl, rfl, rfl⟩

/-- A stspr that writes changes the one register it names, so a changed register was written from its level (10_state R61). -/
theorem writeSpr_levels (v : Word) (s : State) (r : Spr) (hp : sprWriteLevel r ≤ s.pml.toNat) :
    let t := writeSpr v s r
    (t.stat.gine ≠ s.stat.gine ∨ t.stat.spcp ≠ s.stat.spcp ∨ t.spr.uinten ≠ s.spr.uinten → 2 ≤ s.pml.toNat) ∧
    (t.spr.opcarp ≠ s.spr.opcarp ∨ t.spr.rptinfo ≠ s.spr.rptinfo ∨ t.spr.rpid ≠ s.spr.rpid → 3 ≤ s.pml.toNat) ∧
    (t.spr.cpidtp ≠ s.spr.cpidtp → 4 ≤ s.pml.toNat) := by
  rw [writeSpr_eq]
  cases r <;> simp_all [sprWriteLevel]

/-- Settles O54: what changed was written by a stspr, at the level of the register written. -/
theorem systemRegistersChangeOnlyAtTheirLevel : Obligations.SystemRegistersChangeOnlyAtTheirLevel := by
  intro s t h
  obtain ⟨-, rfl | ⟨rfl, -⟩ | ⟨i, hx, hd⟩⟩ := step_did h
  · simp [Raised]
  · simp
  · rcases did_sprs hd with ⟨hg, hs, hspr⟩ | ⟨rsa, a, r, rfl, hp, rfl⟩
    · simp [hg, hs, hspr]
    · obtain ⟨h2, h3, h4⟩ := writeSpr_levels (s.readReg rsa) s r hp
      exact ⟨h2, h3, h4, fun _ => ⟨rsa, a, hx⟩⟩

/-! ## The flags -/

/-- Z and OV stay, or the instruction is of the Integer or Immediate family and left OV, wrote it as `OV_OTHER` says, or wrote
its carry. -/
theorem did_flags {i : Instr} {s t : State} (hd : Did i s t) :
    (t.stat.z = s.stat.z ∧ t.stat.ov = s.stat.ov) ∨
      (i.format = .integer ∨ i.format = .immediate) ∧
        ((t.stat.ov = s.stat.ov ∨ t.stat.ov = ovOtherValue s) ∨ WritesCarry i) := by
  cases hd with
  | alu rd r ov next hf hn ho => exact .inr ⟨hf, ho⟩
  | wroteSpr rsa a r => exact .inl (by rw [writeSpr_eq]; cases r <;> exact ⟨rfl, rfl⟩)
  | entered | left | raisedLevel | loweredLevel =>
    exact .inl (by simp [enterSyscall_eq, leaveSyscall_eq, setPml_eq, advance_eq])
  | _ => exact .inl ⟨rfl, rfl⟩

theorem ovOtherValue_of_unchanged {s : State} (h : s.cfg.ovOther = .unchanged) : ovOtherValue s = s.stat.ov := by
  rw [ovOtherValue, h]

/-- Settles O55: with `OV_OTHER = unchanged` the instructions that write no carry leave OV as it was. -/
theorem flagsChangeOnlyInTheAluFamilies : Obligations.FlagsChangeOnlyInTheAluFamilies := by
  intro s t h
  obtain ⟨-, rfl | ⟨rfl, -⟩ | ⟨i, hx, hd⟩⟩ := step_did h
  · simp [Raised]
  · simp
  · rcases did_flags hd with ⟨hz, hov⟩ | ⟨hf, hov⟩
    · simp [hz, hov]
    · refine ⟨fun _ => ⟨i, hx, hf⟩, fun hc hne => ⟨i, hx, ?_⟩⟩
      rw [ovOtherValue_of_unchanged hc, or_self] at hov
      exact hov.resolve_left hne

/-! ## The sequence of addresses -/

/-- Where an instruction that does not halt the core goes (10_state R35). -/
theorem did_pc {i : Instr} {s t : State} (hd : Did i s t) (hh : t.halted = false) :
    t.pc = s.pc + 4 ∨
      (i.format = .branch ∨ i.format = .jump ∨ i.format = .jumpLink ∨ (∃ n, i = .syscall n) ∨ i = .sysret) ∨
      WritesCarry i ∧ t.pc = 0x00000010 ∧ t.stat.ov = true ∧ RoiEnabled s := by
  cases hd with
  | alu rd r ov next hf hn ho => exact hn.imp_right .inr
  | jumped next hf => exact .inr (.inl (by tauto))
  | linked next hf => exact .inr (.inl (by tauto))
  | raised => exact absurd hh (by simp [Raised])
  | rejected => exact absurd hh (by simp [Raised])
  | entered n e hi => exact .inr (.inl (.inr (.inr (.inr (.inl ⟨n, hi⟩)))))
  | left hi => exact .inr (.inl (.inr (.inr (.inr (.inr hi)))))
  | wroteSpr | raisedLevel | loweredLevel => exact .inl (by simp [writeSpr_eq, setPml_eq, advance_eq])
  | _ => exact .inl rfl

/-- Settles O56: each way out of the sequence is a case of `did_pc`, or the CPMI slot. -/
theorem controlLeavesTheSequenceOnlyAsListed : Obligations.ControlLeavesTheSequenceOnlyAsListed := by
  intro s t h hh hpc
  obtain ⟨-, rfl | ⟨rfl, hspcp, hen⟩ | ⟨i, hx, hd⟩⟩ := step_did h
  · exact absurd hh (by simp [Raised])
  · exact .inr (.inr ⟨rfl, hspcp, hen⟩)
  · rcases did_pc hd hh with hnext | hjump | ⟨hw, hslot, hov, hen⟩
    · exact absurd hnext hpc
    · exact .inl ⟨i, hx, hjump⟩
    · exact .inr (.inl ⟨⟨i, hx, hw⟩, hslot, hov, hen⟩)

/-! ## The locks -/

/-- The locks stay, or a lock took one more. -/
theorem did_locks {i : Instr} {s t : State} (hd : Did i s t) :
    t.locks = s.locks ∨ ∃ rd rsa, i = .lock rd rsa ∧ t.locks = insertAddr (s.readReg rsa).toNat s.locks := by
  cases hd with
  | locked rd rsa hi => exact .inr ⟨rd, rsa, hi, rfl⟩
  | entered | left | wroteSpr | raisedLevel | loweredLevel =>
    exact .inl (by simp [enterSyscall_eq, leaveSyscall_eq, writeSpr_eq, setPml_eq, advance_eq])
  | _ => exact .inl rfl

/-- Settles O57: a lock adds its address to the set. -/
theorem locksAreNeverReleased : Obligations.LocksAreNeverReleased := by
  intro s t h
  obtain ⟨-, rfl | ⟨rfl, -⟩ | ⟨i, hx, hd⟩⟩ := step_did h
  · exact ⟨fun _ ha => ha, fun hne => absurd rfl hne⟩
  · exact ⟨fun _ ha => ha, fun hne => absurd rfl hne⟩
  · rcases did_locks hd with hsame | ⟨rd, rsa, rfl, hins⟩
    · exact ⟨fun _ ha => hsame ▸ ha, fun hne => absurd hsame hne⟩
    · exact ⟨fun _ ha => hins ▸ (mem_insertAddr ..).2 (.inr ha), fun _ => ⟨rd, rsa, hx⟩⟩

/-! ## The program and the parameters -/

/-- The parameters, the table's presence and instruction memory stay, and so does data memory but in a store. -/
theorem did_program {i : Instr} {s t : State} (hd : Did i s t) :
    t.cfg = s.cfg ∧ t.sysctpValid = s.sysctpValid ∧ t.imem = s.imem ∧ (t.dmem = s.dmem ∨ i.format = .store) := by
  cases hd with
  | stored ea v n hf => exact ⟨rfl, rfl, rfl, .inr hf⟩
  | entered | left | wroteSpr | raisedLevel | loweredLevel =>
    simp [enterSyscall_eq, leaveSyscall_eq, writeSpr_eq, setPml_eq, advance_eq]
  | _ => exact ⟨rfl, rfl, rfl, .inl rfl⟩

/-- With separate memories the fetch sees instruction memory only (20_memory R71). -/
theorem fetchByte_of_separate {s t : State} (hc : t.cfg = s.cfg) (hi : t.imem = s.imem)
    (hu : s.cfg.unifiedMemory = false) (a : Word) : fetchByte t a = fetchByte s a := by
  simp [fetchByte, fetchMemory, hc, hi, hu]

/-- Settles O58: what the fetch sees with separate memories are the parameters and instruction memory, which stay. -/
theorem programAndParametersNeverChange : Obligations.ProgramAndParametersNeverChange := by
  intro s t h
  obtain ⟨-, rfl | ⟨rfl, -⟩ | ⟨i, hx, hd⟩⟩ := step_did h
  · exact ⟨rfl, rfl, rfl, fun _ _ => rfl, fun hne => absurd rfl hne⟩
  · exact ⟨rfl, rfl, rfl, fun _ _ => rfl, fun hne => absurd rfl hne⟩
  · obtain ⟨hc, hv, hi, hdmem⟩ := did_program hd
    exact ⟨hc, hv, hi, fetchByte_of_separate hc hi, fun hne => ⟨i, hx, hdmem.resolve_left hne⟩⟩

end Sys2Proof.Machine
end

section
/-!
PROOFS. Non-interference. A part of the state is `Unseen` when two states that differ in it alone look the same to the
instructions and every update keeps it so; the instructions that access neither System Registers nor GLBREGF then answer alike from
both. The permission level (60_exceptions R330) and GLBREGF (10_state R30) are such parts.
-/

namespace Sys2Proof.Machine

/-! ## What instructions see -/

/-- The two states agree in everything that instructions read but for the permission level and the System Registers' own bits. -/
structure SameView (s u : State) : Prop where
  cfg : u.cfg = s.cfg
  pc : u.pc = s.pc
  bank : u.bank = s.bank
  readGp : ∀ r, u.regs.readGp r = s.regs.readGp r
  readSys : ∀ r, u.regs.readSys r = s.regs.readSys r
  gine : u.stat.gine = s.stat.gine
  uinten : u.spr.uinten = s.spr.uinten
  sysretPc : u.sysretPc = s.sysretPc
  sysretPml : u.sysretPml = s.sysretPml
  locks : u.locks = s.locks
  dmem : u.dmem = s.dmem
  unsynced : u.unsynced = s.unsynced

/-- `R` relates states that look the same, and every update of the state that these instructions make keeps it. -/
structure Unseen (R : State → State → Prop) : Prop where
  view : ∀ {s u}, R s u → SameView s u
  setPc : ∀ {s u} v, R s u → R (s.setPc v) (u.setPc v)
  setBank : ∀ {s u} v, R s u → R (s.setBank v) (u.setBank v)
  writeGp : ∀ {s u} r v, R s u → R (s.writeGp r v) (u.writeGp r v)
  writeSys : ∀ {s u} r v, R s u → R (s.writeSys r v) (u.writeSys r v)
  setZ : ∀ {s u} b, R s u → R (s.setZ b) (u.setZ b)
  setOv : ∀ {s u} b, R s u → R (s.setOv b) (u.setOv b)
  setPml : ∀ {s u} v, R s u → R (s.setPml v) (u.setPml v)
  setLocks : ∀ {s u} v, R s u → R (s.setLocks v) (u.setLocks v)
  setDmem : ∀ {s u} v, R s u → R (s.setDmem v) (u.setDmem v)
  setUnsynced : ∀ {s u} v, R s u → R (s.setUnsynced v) (u.setUnsynced v)
  setHalt : ∀ {s u} code info, R s u → R (s.setHalt code info) (u.setHalt code info)

/-! ## The operands of states that look the same -/

section
variable {s u : State} (v : SameView s u)
include v

theorem SameView.readReg (r : RegNum) : u.readReg r = s.readReg r := by
  rw [State.readReg, State.readReg, v.bank]
  cases s.bank
  · exact v.readGp r
  · exact v.readSys r

theorem SameView.imm12Arith (imm : BitVec 12) : imm12Arith u imm = imm12Arith s imm := by
  rw [Machine.imm12Arith, Machine.imm12Arith, v.cfg]

theorem SameView.effectiveAddr (rsa : RegNum) (imm : BitVec 14) : effectiveAddr u rsa imm = effectiveAddr s rsa imm := by
  rw [Machine.effectiveAddr, Machine.effectiveAddr, v.readReg, v.cfg]

theorem SameView.shiftBy (f : Nat → Word) (w : Word) (n : Nat) : shiftBy u f w n = shiftBy s f w n := by
  rw [Machine.shiftBy, Machine.shiftBy, v.cfg]

theorem SameView.shiftLeft (a : Word) (n : Nat) : shiftLeft u a n = shiftLeft s a n := v.shiftBy ..

theorem SameView.shiftRightLogic (a : Word) (n : Nat) : shiftRightLogic u a n = shiftRightLogic s a n := v.shiftBy ..

theorem SameView.shiftRightArith (a : Word) (n : Nat) : shiftRightArith u a n = shiftRightArith s a n := v.shiftBy ..

theorem SameView.greater (a b : Word) : greater u a b = greater s a b := by
  rw [Machine.greater, Machine.greater, v.cfg]

theorem SameView.compare3 (a b : Word) : compare3 u a b = compare3 s a b := by
  rw [Machine.compare3, Machine.compare3, v.greater]

theorem SameView.upperValue (imm : BitVec 16) (old : Word) : upperValue u imm old = upperValue s imm old := by
  rw [Machine.upperValue, Machine.upperValue, v.cfg]

theorem SameView.interruptEnabled (bit : BitVec 5) : interruptEnabled bit u = interruptEnabled bit s := by
  rw [Machine.interruptEnabled, Machine.interruptEnabled, v.gine, v.uinten]

end

/-! ## The shared operations keep what is unseen -/

/-- Two choices by one condition agree if their branches do. -/
theorem answersAgree_ite {R : State → State → Prop} {p q : Prop} [Decidable p] [Decidable q] {a a' b b' : Result}
    (hpq : p ↔ q) (ha : p → AnswersAgree R a a') (hb : ¬p → AnswersAgree R b b') :
    AnswersAgree R (if p then a else b) (if q then a' else b') := by
  by_cases hp : p
  · rw [if_pos hp, if_pos (hpq.1 hp)]
    exact ha hp
  · rw [if_neg hp, if_neg (mt hpq.2 hp)]
    exact hb hp

section
variable {R : State → State → Prop} {s u : State} (hR : Unseen R) (h : R s u)
include hR h

theorem Unseen.advance : R (advance s) (advance u) := by
  rw [Machine.advance, Machine.advance, (hR.view h).pc]
  exact hR.setPc _ h

theorem Unseen.writeReg (r : RegNum) (v : Word) : R (s.writeReg r v) (u.writeReg r v) := by
  rw [State.writeReg, State.writeReg, (hR.view h).bank]
  cases s.bank
  · exact hR.writeGp r v h
  · exact hR.writeSys r v h

theorem Unseen.setOvOther : R s.setOvOther u.setOvOther := by
  unfold State.setOvOther
  rw [(hR.view h).cfg]
  cases s.cfg.ovOther
  · exact h
  · exact hR.setOv _ h

theorem Unseen.advanceOrRoi (ov : Bool) : R (advanceOrRoi ov s) (advanceOrRoi ov u) := by
  rw [Machine.advanceOrRoi, Machine.advanceOrRoi, (hR.view h).cfg, (hR.view h).interruptEnabled]
  split
  · exact hR.setPc _ h
  · exact hR.advance h

theorem Unseen.finishArith (rd : RegNum) {r r' : Word} {ov ov' : Bool} (hr : r' = r) (ho : ov' = ov) :
    AnswersAgree R (.next (finishArith rd r ov s)) (.next (finishArith rd r' ov' u)) := by
  subst hr ho
  exact hR.advanceOrRoi (hR.setOv _ (hR.setZ _ (hR.writeReg h _ _))) _

theorem Unseen.finishKeepOv (rd : RegNum) {r r' : Word} (hr : r' = r) :
    AnswersAgree R (.next (finishKeepOv rd r s)) (.next (finishKeepOv rd r' u)) := by
  subst hr
  exact hR.advance (hR.setZ _ (hR.writeReg h _ _))

theorem Unseen.finishOther (rd : RegNum) {r r' : Word} (hr : r' = r) :
    AnswersAgree R (.next (finishOther rd r s)) (.next (finishOther rd r' u)) := by
  subst hr
  exact hR.advance (hR.setOvOther (hR.setZ _ (hR.writeReg h _ _)))

theorem Unseen.branch {c c' : Bool} (imm : BitVec 14) (hc : c' = c) :
    AnswersAgree R (.next (branch c imm s)) (.next (branch c' imm u)) := by
  subst hc
  show R (Machine.branch c' imm s) (Machine.branch c' imm u)
  unfold Machine.branch branchTarget
  rw [(hR.view h).pc]
  split
  · exact hR.setPc _ h
  · exact hR.advance h

theorem Unseen.linkTo {t t' : Word} (ht : t' = t) : AnswersAgree R (.next (linkTo t s)) (.next (linkTo t' u)) := by
  subst ht
  show R (Machine.linkTo t' s) (Machine.linkTo t' u)
  rw [Machine.linkTo, Machine.linkTo, (hR.view h).pc]
  exact hR.setPc _ (hR.writeReg h _ _)

theorem Unseen.memWrite (a v : Word) (n : Nat) : R (memWrite s a v n) (memWrite u a v n) := by
  unfold Machine.memWrite
  rw [(hR.view h).cfg, (hR.view h).dmem, (hR.view h).unsynced]
  split
  · exact hR.setUnsynced _ (hR.setDmem _ h)
  · exact hR.setDmem _ h

theorem Unseen.load (n al : Nat) (rd : RegNum) (imm : BitVec 14) (rsa : RegNum) :
    AnswersAgree R (load n al rd imm rsa s) (load n al rd imm rsa u) := by
  have view := hR.view h
  unfold Machine.load
  simp only [view.effectiveAddr, view.cfg, memRead_congr s u view.dmem]
  split
  · exact hR.setHalt _ _ h
  · split
    · exact hR.advance (hR.writeReg h _ _)
    · rfl

theorem Unseen.store (n al : Nat) (rsb : RegNum) (imm : BitVec 14) (rsa : RegNum) :
    AnswersAgree R (store n al rsb imm rsa s) (store n al rsb imm rsa u) := by
  have view := hR.view h
  unfold Machine.store
  simp only [view.effectiveAddr, view.cfg, view.readReg]
  split
  · exact hR.setHalt _ _ h
  · split
    · exact hR.advance (hR.memWrite h _ _ _)
    · rfl

theorem Unseen.sysret : AnswersAgree R (execSysret s) (execSysret u) := by
  have view := hR.view h
  unfold execSysret
  rw [view.bank]
  cases s.bank
  · rfl
  · show R (leaveSyscall s) (leaveSyscall u)
    rw [leaveSyscall, leaveSyscall, view.sysretPml, view.sysretPc]
    exact hR.setPc _ (hR.setPml _ (hR.setBank _ h))

theorem Unseen.sync : AnswersAgree R (execSync s) (execSync u) := by
  show R (Machine.advance (syncFetch s)) (Machine.advance (syncFetch u))
  refine hR.advance ?_
  unfold syncFetch
  rw [(hR.view h).cfg]
  split
  · exact hR.setUnsynced _ h
  · exact h

theorem Unseen.lock (rd rsa : RegNum) : AnswersAgree R (execLock rd rsa s) (execLock rd rsa u) := by
  have view := hR.view h
  unfold execLock
  rw [view.locks, view.readReg]
  split
  · exact hR.advance (hR.writeReg h _ _)
  · exact hR.advance (hR.writeReg (hR.setLocks _ h) _ _)

theorem Unseen.test (rd rsa : RegNum) : AnswersAgree R (execTest rd rsa s) (execTest rd rsa u) := by
  have view := hR.view h
  unfold execTest
  rw [view.locks, view.readReg]
  split <;> exact hR.advance (hR.writeReg h _ _)

theorem Unseen.writeGpAnswer (rd : RegNum) {v v' : Word} (hv : v' = v) :
    AnswersAgree R (.next (Machine.advance (s.writeGp rd v))) (.next (Machine.advance (u.writeGp rd v'))) := by
  subst hv
  exact hR.advance (hR.writeGp _ _ h)

theorem Unseen.writeSysAnswer (rd : RegNum) {v v' : Word} (hv : v' = v) :
    AnswersAgree R (.next (Machine.advance (s.writeSys rd v))) (.next (Machine.advance (u.writeSys rd v'))) := by
  subst hv
  exact hR.advance (hR.writeSys _ _ h)

end

/-- The instructions that reach System Registers or set the level, and those that reach GLBREGF. -/
def reachesSpecial : Instr → Bool
  | .stspr .. | .ldspr .. | .syscall _ | .pmir _ | .pmd _ => true
  | .lgi .. | .lugi .. | .lngi .. | .lungi .. => true
  | _ => false

/-- Every other instruction answers alike from two states that differ in an unseen part alone. -/
theorem Unseen.exec {R : State → State → Prop} {s u : State} (hR : Unseen R) (h : R s u) (i : Instr)
    (hi : reachesSpecial i = false) : AnswersAgree R (exec i s) (exec i u) := by
  have view := hR.view h
  cases i
  case add | sub => exact hR.finishArith h _ (by simp only [view.readReg]) (by simp only [view.readReg])
  case addi | subi =>
    exact hR.finishArith h _ (by simp only [view.readReg, view.imm12Arith]) (by simp only [view.readReg, view.imm12Arith])
  case addu | subu => exact hR.finishKeepOv h _ (by simp only [view.readReg])
  case addui | subui => exact hR.finishKeepOv h _ (by simp only [view.readReg, view.imm12Arith])
  case not | and | or | xor | andi | ori | xori => exact hR.finishOther h _ (by simp only [view.readReg])
  case sal | sll | sali | slli => exact hR.finishOther h _ (by simp only [view.readReg, view.shiftLeft])
  case sar | sari => exact hR.finishOther h _ (by simp only [view.readReg, view.shiftRightArith])
  case slr | slri => exact hR.finishOther h _ (by simp only [view.readReg, view.shiftRightLogic])
  case comp | compi => exact hR.finishOther h _ (by simp only [view.readReg, view.imm12Arith, view.compare3])
  case noti => exact hR.finishOther h _ (by rw [view.imm12Arith])
  case lw | lh | lth | lb => exact hR.load h ..
  case sw | sh | sth | sb => exact hR.store h ..
  case li | lni => exact hR.writeGpAnswer h _ rfl
  case lui | luni => exact hR.writeGpAnswer h _ (by rw [view.upperValue, view.readGp])
  case lsi | lnsi => exact hR.writeSysAnswer h _ rfl
  case lusi | lunsi => exact hR.writeSysAnswer h _ (by rw [view.upperValue, view.readSys])
  case beq | bne | bgt | blt => exact hR.branch h _ (by simp only [view.readReg, view.greater])
  case j imm =>
    show R (s.setPc (s.pc + _)) (u.setPc (u.pc + _))
    rw [view.pc]
    exact hR.setPc _ h
  case jr imm rsa =>
    show R (s.setPc (s.readReg rsa + _)) (u.setPc (u.readReg rsa + _))
    rw [view.readReg]
    exact hR.setPc _ h
  case jal => exact hR.linkTo h (by rw [relativeTarget, relativeTarget, view.pc])
  case jrl => exact hR.linkTo h (by rw [registerTarget, registerTarget, view.readReg])
  case sysret => exact hR.sysret h
  case sync => exact hR.sync h
  case lock => exact hR.lock h ..
  case test => exact hR.test h ..
  all_goals cases hi

/-! ## The permission level -/

/-- The state at another permission level. -/
def State.atLevel (s : State) (level : BitVec 3) : State := { s with stat := { s.stat with pml := level } }

/-- Equal but for PML. -/
def EqButLevel (s u : State) : Prop := u = s.atLevel u.stat.pml

theorem eqButLevel_iff (s u : State) : EqButLevel s u ↔ ∃ level, u = s.atLevel level :=
  ⟨fun h => ⟨_, h⟩, fun ⟨_, h⟩ => by subst h; rfl⟩

/-- What an operation does to every state at another level, it does to the related states. -/
theorem EqButLevel.update {s u : State} (h : EqButLevel s u) (f : State → State)
    (hf : ∀ s level, EqButLevel (f s) (f (s.atLevel level))) : EqButLevel (f s) (f u) := by
  obtain ⟨level, rfl⟩ := (eqButLevel_iff _ _).1 h
  exact hf s level

/-- PML is unseen: every update writes it in both states or in neither. -/
theorem unseen_level : Unseen EqButLevel where
  view h := by
    obtain ⟨level, rfl⟩ := (eqButLevel_iff _ _).1 h
    exact ⟨rfl, rfl, rfl, fun _ => rfl, fun _ => rfl, rfl, rfl, rfl, rfl, rfl, rfl, rfl⟩
  setPc v h := h.update (·.setPc v) fun _ _ => rfl
  setBank v h := h.update (·.setBank v) fun _ _ => rfl
  writeGp a v h := h.update (·.writeGp a v) fun _ _ => rfl
  writeSys a v h := h.update (·.writeSys a v) fun _ _ => rfl
  setZ v h := h.update (·.setZ v) fun _ _ => rfl
  setOv v h := h.update (·.setOv v) fun _ _ => rfl
  setPml v h := h.update (·.setPml v) fun _ _ => by rw [setPml_eq, setPml_eq]; rfl
  setLocks v h := h.update (·.setLocks v) fun _ _ => rfl
  setDmem v h := h.update (·.setDmem v) fun _ _ => rfl
  setUnsynced v h := h.update (·.setUnsynced v) fun _ _ => rfl
  setHalt a v h := h.update (·.setHalt a v) fun _ _ => rfl

/-- Settles O59: PML is unseen, and the Load Immediates into GLBREGF do not look at it either. -/
theorem unprivilegedInstructionsIgnoreTheLevel : Obligations.UnprivilegedInstructionsIgnoreTheLevel := by
  intro i s level hstspr hldspr hsyscall hpmir hpmd
  show AnswersAgree EqButLevel (exec i s) (exec i (s.atLevel level))
  have h : EqButLevel s (s.atLevel level) := rfl
  cases i
  case stspr => exact (hstspr _ _ rfl).elim
  case ldspr => exact (hldspr _ _ rfl).elim
  case syscall => exact (hsyscall _ rfl).elim
  case pmir => exact (hpmir _ rfl).elim
  case pmd => exact (hpmd _ rfl).elim
  case lgi | lugi | lngi | lungi => rfl
  all_goals exact unseen_level.exec h _ rfl

/-! ## GLBREGF -/

/-- The state with other values in GLBREGF. -/
def State.withGlb (s : State) (g : Vector Word 32) : State := { s with regs := { s.regs with glb := g } }

/-- Equal but for GLBREGF. -/
def EqButGlb (s u : State) : Prop := u = s.withGlb u.regs.glb

theorem eqButGlb_iff (s u : State) : EqButGlb s u ↔ ∃ g, u = s.withGlb g :=
  ⟨fun h => ⟨_, h⟩, fun ⟨_, h⟩ => by subst h; rfl⟩

/-- What an operation does to every state with other values in GLBREGF, it does to the related states. -/
theorem EqButGlb.update {s u : State} (h : EqButGlb s u) (f : State → State)
    (hf : ∀ s g, EqButGlb (f s) (f (s.withGlb g))) : EqButGlb (f s) (f u) := by
  obtain ⟨g, rfl⟩ := (eqButGlb_iff _ _).1 h
  exact hf s g

/-- A write to a bank and other values in GLBREGF do not meet. -/
theorem RegFiles.write_withGlb (f : RegFiles) (g : Vector Word 32) (b : Bank) (r : RegNum) (v : Word) :
    ({ f with glb := g } : RegFiles).write b r v = { f.write b r v with glb := g } := by
  cases b
  · simp only [RegFiles.write, RegFiles.writeGp]
    split <;> rfl
  · simp only [RegFiles.write, RegFiles.writeSys]
    split
    · rfl
    · split
      · rfl
      · split <;> rfl

theorem writeGp_withGlb (s : State) (g : Vector Word 32) (r : RegNum) (v : Word) :
    (s.withGlb g).writeGp r v = (s.writeGp r v).withGlb g :=
  congrArg s.setRegs (s.regs.write_withGlb g .gp r v)

theorem writeSys_withGlb (s : State) (g : Vector Word 32) (r : RegNum) (v : Word) :
    (s.withGlb g).writeSys r v = (s.writeSys r v).withGlb g :=
  congrArg s.setRegs (s.regs.write_withGlb g .sys r v)

/-- GLBREGF is unseen. -/
theorem unseen_glb : Unseen EqButGlb where
  view h := by
    obtain ⟨g, rfl⟩ := (eqButGlb_iff _ _).1 h
    exact ⟨rfl, rfl, rfl, fun _ => rfl, fun _ => rfl, rfl, rfl, rfl, rfl, rfl, rfl, rfl⟩
  setPc v h := h.update (·.setPc v) fun _ _ => rfl
  setBank v h := h.update (·.setBank v) fun _ _ => rfl
  writeGp a v h := h.update (·.writeGp a v) fun _ g => (eqButGlb_iff _ _).2 ⟨g, writeGp_withGlb ..⟩
  writeSys a v h := h.update (·.writeSys a v) fun _ g => (eqButGlb_iff _ _).2 ⟨g, writeSys_withGlb ..⟩
  setZ v h := h.update (·.setZ v) fun _ _ => rfl
  setOv v h := h.update (·.setOv v) fun _ _ => rfl
  setPml v h := h.update (·.setPml v) fun _ _ => by rw [setPml_eq, setPml_eq]; rfl
  setLocks v h := h.update (·.setLocks v) fun _ _ => rfl
  setDmem v h := h.update (·.setDmem v) fun _ _ => rfl
  setUnsynced v h := h.update (·.setUnsynced v) fun _ _ => rfl
  setHalt a v h := h.update (·.setHalt a v) fun _ _ => rfl

theorem eqButGlb_withGlb (s : State) (g : Vector Word 32) : EqButGlb s (s.withGlb g) := rfl

theorem readReg_withGlb (s : State) (g : Vector Word 32) (r : RegNum) : (s.withGlb g).readReg r = s.readReg r :=
  (unseen_glb.view (eqButGlb_withGlb s g)).readReg r

theorem readSpr_withGlb (s : State) (g : Vector Word 32) (r : Spr) : readSpr (s.withGlb g) r = readSpr s r := by
  cases r <;> rfl

theorem syscall_withGlb (n : BitVec 8) (s : State) (g : Vector Word 32) :
    AnswersAgree EqButGlb (execSyscall n s) (execSyscall n (s.withGlb g)) := by
  have reject : ∀ e, EqButGlb (rejectSyscall e n s) (rejectSyscall e n (s.withGlb g)) := fun e => by
    rw [rejectSyscall_eq, rejectSyscall_eq]; rfl
  have enter : ∀ e, EqButGlb (enterSyscall e s) (enterSyscall e (s.withGlb g)) := fun e => by
    rw [enterSyscall_eq, enterSyscall_eq]; rfl
  unfold execSyscall
  refine answersAgree_ite Iff.rfl (fun _ => ?_) fun _ => reject _
  rw [show (s.withGlb g).cfg = s.cfg from rfl]
  cases syscallEntry s.cfg n with
  | none => exact reject _
  | some e => exact answersAgree_ite Iff.rfl (fun _ => reject _) fun _ => enter e

theorem stspr_withGlb (rsa : RegNum) (a : BitVec 8) (s : State) (g : Vector Word 32) :
    AnswersAgree EqButGlb (execStspr rsa a s) (execStspr rsa a (s.withGlb g)) := by
  have write : ∀ v r, EqButGlb (advance (writeSpr v s r)) (advance (writeSpr v (s.withGlb g) r)) := fun v r => by
    rw [writeSpr_eq, writeSpr_eq]; rfl
  unfold execStspr
  rw [readReg_withGlb]
  cases sprAt a with
  | none => rfl
  | some r =>
    exact answersAgree_ite Iff.rfl (fun _ => unseen_glb.setHalt _ _ (eqButGlb_withGlb s g)) fun _ =>
      answersAgree_ite Iff.rfl (fun _ => rfl) fun _ => write _ r

theorem ldspr_withGlb (rd : RegNum) (a : BitVec 8) (s : State) (g : Vector Word 32) :
    AnswersAgree EqButGlb (execLdspr rd a s) (execLdspr rd a (s.withGlb g)) := by
  have same := eqButGlb_withGlb s g
  simp only [execLdspr, readSpr_withGlb]
  cases sprAt a with
  | none => rfl
  | some r =>
    exact answersAgree_ite Iff.rfl (fun _ => unseen_glb.setHalt _ _ same) fun _ =>
      unseen_glb.advance (unseen_glb.writeReg same _ _)

theorem pmir_withGlb (n : BitVec 8) (s : State) (g : Vector Word 32) :
    AnswersAgree EqButGlb (execPmir n s) (execPmir n (s.withGlb g)) := by
  have same := eqButGlb_withGlb s g
  have raise : AnswersAgree EqButGlb (invalidLevel n s) (invalidLevel n (s.withGlb g)) := unseen_glb.setHalt _ _ same
  unfold execPmir
  refine answersAgree_ite Iff.rfl (fun _ => unseen_glb.advance same) fun _ => ?_
  refine answersAgree_ite Iff.rfl (fun _ => raise) fun _ => ?_
  refine answersAgree_ite Iff.rfl (fun _ => unseen_glb.advance same) fun _ => ?_
  refine answersAgree_ite Iff.rfl (fun _ => raise) fun _ => ?_
  exact answersAgree_ite Iff.rfl (fun _ => unseen_glb.advance (unseen_glb.setPml _ same)) fun _ => raise

theorem pmd_withGlb (n : BitVec 8) (s : State) (g : Vector Word 32) :
    AnswersAgree EqButGlb (execPmd n s) (execPmd n (s.withGlb g)) := by
  have same := eqButGlb_withGlb s g
  have raise : AnswersAgree EqButGlb (invalidLevel n s) (invalidLevel n (s.withGlb g)) := unseen_glb.setHalt _ _ same
  unfold execPmd
  refine answersAgree_ite Iff.rfl (fun _ => unseen_glb.advance same) fun _ => ?_
  refine answersAgree_ite Iff.rfl (fun _ => raise) fun _ => ?_
  exact answersAgree_ite Iff.rfl (fun _ => unseen_glb.advance (unseen_glb.setPml _ same)) fun _ => raise

/-- GLBREGF stays, or a Load Immediate into it was executed. -/
theorem did_glb {i : Instr} {s t : State} (hd : Did i s t) :
    t.regs.glb = s.regs.glb ∨ ∃ rd imm, i = .lgi rd imm ∨ i = .lugi rd imm ∨ i = .lngi rd imm ∨ i = .lungi rd imm := by
  cases hd with
  | wroteGlb rd v hi => exact .inr hi
  | alu | wroteReg | wroteFile | linked | locked => exact .inl (RegFiles.write_glb ..)
  | entered | left | wroteSpr | raisedLevel | loweredLevel =>
    exact .inl (by simp [enterSyscall_eq, leaveSyscall_eq, writeSpr_eq, setPml_eq, advance_eq])
  | _ => exact .inl rfl

/-- Settles O60: GLBREGF is unseen, the System instructions do not reach it, and the Load Immediates into it change nothing
else, whatever they find there. -/
theorem noInstructionReadsGlbregf : Obligations.NoInstructionReadsGlbregf := by
  intro i s g
  refine ⟨fun _ => ?reads, fun t h hne => (did_glb (exec_did h)).resolve_left hne⟩
  show AnswersAgree EqButGlb (exec i s) (exec i (s.withGlb g))
  cases i
  case stspr => exact stspr_withGlb ..
  case ldspr => exact ldspr_withGlb ..
  case syscall => exact syscall_withGlb ..
  case pmir => exact pmir_withGlb ..
  case pmd => exact pmd_withGlb ..
  case lgi | lugi | lngi | lungi => rfl
  all_goals exact unseen_glb.exec (eqButGlb_withGlb s g) _ rfl

end Sys2Proof.Machine
end

section
/-!
PROOFS. The front end of the step (70_reset R355): a halted core, a misaligned `pc`, the decoded instruction, the words that are
none, and the instruction that a loader places.
-/

namespace Sys2Proof.Machine

/-! ## The step by what the front end finds -/

/-- Settles O6: the front end looks at `halted` first. -/
theorem haltedCoreTakesNoStep : Obligations.HaltedCoreTakesNoStep := by
  intro s h
  simp [step, frontEnd, h]

/-- Settles O7: the front end looks at the alignment next. -/
theorem misalignedFetchRaisesMisaddr : Obligations.MisalignedFetchRaisesMisaddr := by
  intro s hrun hal
  simp [step, frontEnd, hrun, misaligned_eq, hal, raiseException_eq]

/-- The step on a word that decodes to an instruction. -/
theorem step_of_decode (s : State) (w : Word) (i : Instr) (hrun : s.halted = false) (hal : s.pc.toNat % 4 = 0)
    (hsync : Synced s s.pc) (hw : fetchWord s s.pc = some w) (hd : decode s.cfg w = .ok i) : step s = exec i s := by
  unfold step
  rw [frontEnd_of_fetch s w hrun hal hsync hw, decodeStage, hd]

/-- The step where a byte of the word was stored to since the last sync (20_memory R86). -/
theorem step_of_unsynced (s : State) (hrun : s.halted = false) (hal : s.pc.toNat % 4 = 0) (hsync : ¬Synced s s.pc) :
    step s = .refused (.unsyncedFetch s.pc) := by
  have hu : unsyncedWord s s.pc = true := by
    rwa [← unsyncedWord_eq_false_iff, Bool.not_eq_false] at hsync
  simp [step, frontEnd, hrun, misaligned_eq, hal, hu]

/-- Settles O4: the four bytes are the fetched word. -/
theorem stepExecutesTheDecodedInstruction : Obligations.StepExecutesTheDecodedInstruction := by
  intro s b0 b1 b2 b3 i hrun hal h0 h1 h2 h3 hsync hd
  have hw : fetchWord s s.pc = some (wordOfBytes b0 b1 b2 b3) :=
    (fetchWord_eq_some_iff ..).2 ⟨b0, b1, b2, b3, h0, h1, h2, h3, rfl⟩
  exact step_of_decode s _ i hrun hal hsync hw hd

/-! ## A placed instruction -/

/-- The memory that the fetch reads gets the word, and of the unsynced addresses the four are taken away. -/
theorem placeInstruction_eq (s : State) (w : Word) :
    placeInstruction s w =
      if s.cfg.unifiedMemory then
        { s with
          dmem := placeWord s.dmem s.pc w
          unsynced := s.unsynced.filter fun a =>
            a != s.pc.toNat && a != (s.pc + 1).toNat && a != (s.pc + 2).toNat && a != (s.pc + 3).toNat }
      else { s with imem := placeWord s.imem s.pc w } := rfl

/-- The word of `withFetchWord` is the word given, where that has 32 bits. -/
theorem withFetchWord_eq (s : State) (w : Word) : s.withFetchWord 32 w.toNat = placeInstruction s w := by
  rw [State.withFetchWord, Nat.mod_eq_of_lt w.isLt, BitVec.ofNat_toNat, BitVec.setWidth_eq]

theorem placeInstruction_frame (s : State) (w : Word) :
    SameRegs s (placeInstruction s w) ∧ (placeInstruction s w).stat = s.stat ∧ (placeInstruction s w).pc = s.pc ∧
      SameControl s (placeInstruction s w) := by
  rw [placeInstruction_eq]
  split <;>
    exact ⟨fun _ => ⟨rfl, rfl, rfl⟩, rfl, rfl, ⟨rfl, rfl, rfl, rfl, rfl, rfl, rfl, rfl⟩, rfl, rfl⟩

/-- Outside the four addresses the placed memory reads as before. -/
theorem read_placeWord_out (m : Memory) (a w b : Word) (h : ∀ k < 4, b ≠ a + BitVec.ofNat 32 k) :
    Memory.read (placeWord m a w) b.toNat = Memory.read m b.toNat := by
  have h0 : b ≠ a := by simpa using h 0 (by omega)
  have h1 : b ≠ a + 1 := h 1 (by omega)
  have h2 : b ≠ a + 2 := h 2 (by omega)
  have h3 : b ≠ a + 3 := h 3 (by omega)
  simp only [read_placeWord, BitVec.toNat_inj, if_neg h0, if_neg h1, if_neg h2, if_neg h3]

/-- At the four addresses the placed memory reads the bytes of the word. -/
theorem read_placeWord_in (m : Memory) (a w : Word) (k : Nat) (hk : k < 4) :
    Memory.read (placeWord m a w) (a + BitVec.ofNat 32 k).toNat = some (byteOfWord w k) := by
  have ne : ∀ j < 4, j ≠ k → a + BitVec.ofNat 32 k ≠ a + BitVec.ofNat 32 j :=
    fun j hj hjk e => hjk (add_ofNat_inj a k j (by omega) (by omega) e).symm
  have ne1 : 1 ≠ k → a + BitVec.ofNat 32 k ≠ a + 1 := ne 1 (by omega)
  have ne2 : 2 ≠ k → a + BitVec.ofNat 32 k ≠ a + 2 := ne 2 (by omega)
  have ne3 : 3 ≠ k → a + BitVec.ofNat 32 k ≠ a + 3 := ne 3 (by omega)
  simp only [read_placeWord, BitVec.toNat_inj]
  interval_cases k
  · rw [if_neg (ne3 (by omega)), if_neg (ne2 (by omega)), if_neg (ne1 (by omega)), if_pos (by simp)]
  · rw [if_neg (ne3 (by omega)), if_neg (ne2 (by omega))]
    exact if_pos rfl
  · rw [if_neg (ne3 (by omega))]
    exact if_pos rfl
  · exact if_pos rfl

theorem placeInstruction_bytes_out (s : State) (w b : Word) (h : ∀ k < 4, b ≠ s.pc + BitVec.ofNat 32 k) :
    (placeInstruction s w).readByte b = s.readByte b ∧ fetchByte (placeInstruction s w) b = fetchByte s b := by
  rw [placeInstruction_eq]
  cases hu : s.cfg.unifiedMemory <;>
    simp [State.readByte, fetchByte, fetchMemory, hu, read_placeWord_out _ _ _ _ h]

/-- The fetch at `pc` finds the bytes of the placed word, where the platform backs them. -/
theorem fetchByte_placeInstruction (s : State) (w : Word) (hb : s.cfg.unifiedMemory = true → Backed s s.pc 4) (k : Nat)
    (hk : k < 4) : fetchByte (placeInstruction s w) (s.pc + BitVec.ofNat 32 k) = some (byteOfWord w k) := by
  rw [placeInstruction_eq]
  have read := fun m => read_placeWord_in m s.pc w k hk
  cases hu : s.cfg.unifiedMemory
  · generalize s.pc + BitVec.ofNat 32 k = a at read ⊢
    simp [fetchByte, fetchMemory, hu, read]
  · have backed := (backedRange_iff ..).1 ((backedRange_iff_Backed ..).2 (hb hu)) k hk
    generalize s.pc + BitVec.ofNat 32 k = a at read backed ⊢
    simp [fetchByte, fetchMemory, hu, backed, read]

theorem synced_placeInstruction (s : State) (w : Word) : Synced (placeInstruction s w) s.pc := by
  intro hu k hk
  rw [placeInstruction_eq] at hu ⊢
  split at hu
  · rename_i hc
    rw [if_pos hc, List.mem_filter]
    interval_cases k <;> simp
  · rename_i hc
    exact absurd hu hc

/-- Settles O5: the placed word is fetched, it is the encoding of the instruction, and only the four bytes differ. -/
theorem placedInstructionIsTheNextExecuted : Obligations.PlacedInstructionIsTheNextExecuted := by
  intro s i hrun hal hb hi
  rw [withFetchWord_eq]
  obtain ⟨hregs, hstat, hpc, hcontrol⟩ := placeInstruction_frame s (encode s.cfg i)
  refine ⟨?step, hregs, hstat, hpc, hcontrol, placeInstruction_bytes_out s _⟩
  obtain ⟨⟨hcfg, -, -, hhalt, -⟩, -⟩ := hcontrol
  have fetched := fetchByte_placeInstruction s (encode s.cfg i) hb
  refine step_of_decode _ (encode s.cfg i) i (hhalt.trans hrun) (hpc ▸ hal) (hpc ▸ synced_placeInstruction s _) ?_
    (by rw [hcfg]; exact decodeOfEncodeIsTheInstruction s.cfg i hi)
  rw [hpc, fetchWord_eq_some_iff]
  exact ⟨_, _, _, _, by simpa using fetched 0 (by omega), fetched 1 (by omega), fetched 2 (by omega),
    fetched 3 (by omega), (wordOfBytes_byteOfWord _).symm⟩

/-! ## Words that are no instruction -/

/-- The word of a non-zero shft under an aluop of the register shifts (40_integer R141). -/
theorem decodeInteger_shiftField (w : Word) (hs : shftField w ≠ 0)
    (ha : aluopField w = 0x8 ∨ aluopField w = 0x9 ∨ aluopField w = 0xa ∨ aluopField w = 0xb) :
    decodeInteger w = .error .shiftField := by
  rcases ha with h | h | h | h <;> simpa [decodeInteger, h, decodeShift] using hs

/-- Settles O9: the word is of the Integer format, whose decoder rejects the shft field by name. -/
theorem shiftWithShftFieldIsRefused : Obligations.ShiftWithShftFieldIsRefused := by
  intro s rd rsa rsb shft aluop hmap hsys hsync hrun hal hshft haluop hw
  refine step_of_reject s _ .shiftField hrun hal hsync hw ?_
  rw [decode_of_opcodeField s.cfg .integer _ (by rw [opcodeField_integer]; simp [opcode, hmap])]
  apply decodeInteger_shiftField
  · rwa [shftField_integer]
  · rwa [aluopField_integer]

/-! ### Reserved encodings: the fields of a word as quotients and remainders, and what each reserved value decodes to -/

theorem opcodeField_toNat (w : Word) : (opcodeField w).toNat = w.toNat / 2 ^ 26 := by
  rw [opcodeField, BitVec.extractLsb'_toNat, Nat.shiftRight_eq_div_pow]
  omega

theorem aluopField_toNat (w : Word) : (aluopField w).toNat = w.toNat % 16 := by
  rw [aluopField, BitVec.extractLsb'_toNat, Nat.shiftRight_zero]

theorem rsaField_toNat (w : Word) : (rsaField w).toNat = w.toNat / 2 ^ 16 % 32 := by
  rw [rsaField, BitVec.extractLsb'_toNat, Nat.shiftRight_eq_div_pow]

theorem functField_toNat (w : Word) : (functField w).toNat = w.toNat / 2 ^ 8 % 256 := by
  rw [functField, BitVec.extractLsb'_toNat, Nat.shiftRight_eq_div_pow]

theorem decodeInteger_reserved {w : Word} (h : 0xd ≤ (aluopField w).toNat) : decodeInteger w = .error .reservedAluop := by
  unfold decodeInteger
  split
  case h_14 => rfl
  all_goals omega

theorem decodeImmediate_reserved {w : Word} (h : 0xd ≤ (aluopField w).toNat) :
    decodeImmediate w = .error .reservedAluop := by
  unfold decodeImmediate
  split
  case h_14 => rfl
  all_goals omega

/-- `noti` with a register in the field that must be 0 (30_encoding R120). -/
theorem decodeImmediate_notiRsa {w : Word} (h : (aluopField w).toNat = 0x4) (hr : (rsaField w).toNat ≠ 0) :
    decodeImmediate w = .error .notiRsa := by
  have : rsaField w ≠ 0 := fun e => hr (by rw [e]; rfl)
  simp only [decodeImmediate, h, if_neg this]

theorem decodeLoadImmediate_unassigned {w : Word}
    (h : (rsaField w).toNat ∈ [0x06, 0x07, 0x0e, 0x0f] ∨ 0x10 ≤ (rsaField w).toNat) :
    decodeLoadImmediate w = .error .unassignedDsel := by
  simp only [List.mem_cons, List.not_mem_nil, or_false] at h
  unfold decodeLoadImmediate
  split
  case h_13 => rfl
  all_goals omega

theorem decodeSystem_unassigned {w : Word} (h : 0x09 ≤ (functField w).toNat) :
    decodeSystem w = .error .unassignedFunct := by
  unfold decodeSystem
  split
  case h_10 => rfl
  all_goals omega

theorem decode_of_formatOf {c : Config} {w : Word} {f : Format} (hc : isCoprocessorOpcode c (opcodeField w) = false)
    (hf : formatOf c (opcodeField w) = some f) : decode c w = decodeFormat w f := by
  simp [decode, hc, hf]

theorem decode_of_formatOf_none {c : Config} {w : Word} (hc : isCoprocessorOpcode c (opcodeField w) = false)
    (hf : formatOf c (opcodeField w) = none) : decode c w = .error .unassignedOpcode := by
  simp [decode, hc, hf]

/-- Settles O8: each reserved encoding is rejected by name, and the step makes an illegal instruction of these names. -/
theorem reservedEncodingsAreIllegal : Obligations.ReservedEncodingsAreIllegal := by
  intro s w hmap hsys hsync hrun hal hw
  dsimp only
  rw [← opcodeField_toNat, ← aluopField_toNat, ← rsaField_toNat, ← functField_toNat]
  intro hres
  have stops : ∀ r, decode s.cfg w = .error r → rejectedWord r w s = .fault (.illegalInstruction s.pc w) →
      step s = .fault (.illegalInstruction s.pc w) :=
    fun r hd hr => (step_of_reject s w r hrun hal hsync hw hd).trans hr
  have hlow : (opcodeField w).toNat < 32 := by
    rcases hres with ⟨h, -⟩ | ⟨h, -⟩ | ⟨h, -⟩ | ⟨h, -⟩ | ⟨h, -⟩ | ⟨h, -⟩ <;> omega
  obtain ⟨hcore, hnone, hint, himm, hload, hsystem⟩ := (opcodes_of_s83 s.cfg hmap hsys (opcodeField w)).2 hlow
  rcases hres with ⟨-, h⟩ | ⟨ho, h⟩ | ⟨ho, h⟩ | ⟨ho, h4, hr⟩ | ⟨ho, h⟩ | ⟨ho, h⟩
  · exact stops .unassignedOpcode (decode_of_formatOf_none hcore (hnone h)) rfl
  · exact stops .reservedAluop ((decode_of_formatOf hcore (hint ho)).trans (decodeInteger_reserved h)) rfl
  · exact stops .reservedAluop ((decode_of_formatOf hcore (himm ho)).trans (decodeImmediate_reserved h)) rfl
  · exact stops .notiRsa ((decode_of_formatOf hcore (himm ho)).trans (decodeImmediate_notiRsa h4 hr)) rfl
  · exact stops .unassignedDsel ((decode_of_formatOf hcore (hload ho)).trans (decodeLoadImmediate_unassigned h)) rfl
  · exact stops .unassignedFunct ((decode_of_formatOf hcore (hsystem ho)).trans (decodeSystem_unassigned h)) rfl

/-! ### Co-processor words -/

/-- Under the spec's opcode map the words from 2^31 up are co-processor words (30_encoding R102). -/
theorem decode_coprocessor {c : Config} {w : Word} (h : c.opmap = .s83) (hw : 2 ^ 31 ≤ w.toNat) :
    decode c w = .error .coprocessor := by
  have upper : ∀ op : BitVec 6, 32 ≤ op.toNat → op.getLsbD 5 = true := by decide
  have hop := upper (opcodeField w) (by rw [opcodeField_toNat]; omega)
  simp only [decode, isCoprocessorOpcode, h, hop, if_true]

theorem coprocessorClaims_iff (c : Config) (w : Word) :
    coprocessorClaims c w = true ↔ c.cpnum ≠ 0 ∧ w.extractLsb' 26 6 ∈ c.claimedOpcodes := by
  simp [coprocessorClaims, opcodeField]

/-- Settles O10: the word is a co-processor's, and the four clauses are its four ways. -/
theorem coprocessorWordsAreIllegalOrEnterCpmi : Obligations.CoprocessorWordsAreIllegalOrEnterCpmi := by
  intro s w hmap hsync hrun hal hw hupper
  dsimp only
  have hstep : step s = coprocessorWord w s :=
    step_of_reject s w .coprocessor hrun hal hsync hw (decode_coprocessor hmap hupper)
  rw [hstep, ← coprocessorClaims_iff, ← cpmiEnabled_iff]
  refine ⟨fun hc => ?claimed, fun hc hs => ?illegal, fun hc hs he => ?slot, fun hc hs he => ?notEnabled⟩
  case claimed => rw [coprocessorWord, if_pos hc]
  case illegal => rw [coprocessorWord, if_neg hc, if_pos (by rw [hs]; rfl)]
  case slot => rw [coprocessorWord, if_neg hc, if_neg (by rw [hs]; decide), if_pos he]; rfl
  case notEnabled => rw [coprocessorWord, if_neg hc, if_neg (by rw [hs]; decide), if_neg he]

end Sys2Proof.Machine
end

section
/-!
PROOFS. The register files (10_state R24 to R27), the loads and the stores (42_load_store), and what a store leaves for the loads
and, after a sync, for the fetch.
-/

namespace Sys2Proof.Machine

/-- Settles O12: the laws of the register files, as the frames of Safety say them. -/
theorem registerFilesReadAndWrite : Obligations.RegisterFilesReadAndWrite := fun s f r v =>
  ⟨f.readGp_zero, f.readSys_zero, fun hr => (f.readSys_eq_readGp r hr).symm, wroteReg_of_regs s _ .gp r v rfl,
    wroteReg_of_regs s _ .sys r v rfl, wroteGlb_of_regs s _ r v rfl⟩

/-! ## Loads and stores by width -/

/-- Settles O23: the bytes that each width assembles, zeros above. -/
theorem loadsReadBigEndianAndZeroExtend : Obligations.LoadsReadBigEndianAndZeroExtend := by
  intro s rd rsa imm
  refine ⟨decodesTo_encode (.lw rd imm rsa) rfl, decodesTo_encode (.lh rd imm rsa) rfl,
    decodesTo_encode (.lth rd imm rsa) rfl, decodesTo_encode (.lb rd imm rsa) rfl, ?_⟩
  rw [← effectiveAddr_eq]
  intro ea byte
  have byte_zero : byte 0 = s.readByte ea := by simp [byte]
  rw [byte_zero]
  refine ⟨fun ha hb => ?lw, load_misaligned _ rfl, fun ha hb => ?lh, load_misaligned _ rfl, fun ha hb => ?lth,
    load_misaligned _ rfl, fun hb => ?lb⟩
  case lw => rw [← memRead_four]; exact load_completes _ rfl ha hb
  case lh => rw [← memRead_two]; exact load_completes _ rfl ha hb
  case lth => rw [← memRead_three]; exact load_completes _ rfl ha hb
  case lb => rw [← memRead_one]; exact load_completes (al := 1) _ rfl (Nat.mod_one _) hb

/-- A store whose address is aligned and backed answers with its bytes, the most significant first. -/
theorem storeAnswer_of_store {n al : Nat} {rsb : RegNum} {imm : BitVec 14} {rsa : RegNum} {s : State} {i : Instr}
    (bytes : List Byte) (hi : exec i s = store n al rsb imm rsa s) (hal : (effectiveAddr s rsa imm).toNat % al = 0)
    (hb : Backed s (effectiveAddr s rsa imm) n) (hn : n ≤ 4) (hl : bytes.length = n)
    (hv : ∀ k (h : k < bytes.length), bytes[k] = (s.readReg rsb).extractLsb' (8 * (n - 1 - k)) 8) :
    StoreAnswer i (effectiveAddr s rsa imm) bytes s :=
  storeAnswer_of_exec s i _ _ n hn bytes hl hv (store_completes i hi hal hb)

/-- Settles O24: the bytes that each width takes apart. -/
theorem storesWriteBigEndianAndNothingElse : Obligations.StoresWriteBigEndianAndNothingElse := by
  intro s rsb rsa imm word
  refine ⟨decodesTo_encode (.sw rsb imm rsa) rfl, decodesTo_encode (.sh rsb imm rsa) rfl,
    decodesTo_encode (.sth rsb imm rsa) rfl, decodesTo_encode (.sb rsb imm rsa) rfl, ?_⟩
  intro ea v
  refine ⟨effectiveAddr_eq s rsa imm, fun ha hb => ?sw, store_misaligned _ rfl, fun ha hb => ?sh, store_misaligned _ rfl,
    fun ha hb => ?sth, store_misaligned _ rfl, fun hb => ?sb⟩
  case sw =>
    refine storeAnswer_of_store _ rfl ha hb (by omega) rfl fun k hk => ?_
    match k, hk with | 0, _ | 1, _ | 2, _ | 3, _ => rfl
  case sh =>
    refine storeAnswer_of_store _ rfl ha hb (by omega) rfl fun k hk => ?_
    match k, hk with | 0, _ | 1, _ => rfl
  case sth =>
    refine storeAnswer_of_store _ rfl ha hb (by omega) rfl fun k hk => ?_
    match k, hk with | 0, _ | 1, _ | 2, _ => rfl
  case sb =>
    refine storeAnswer_of_store (al := 1) _ rfl (Nat.mod_one _) hb (by omega) rfl fun k hk => ?_
    match k, hk with | 0, _ => rfl

/-- Settles O25: the stuck case of the loads and of the stores, width by width. -/
theorem unbackedAccessIsStuck : Obligations.UnbackedAccessIsStuck := by
  intro s rd rsa imm ea
  refine ⟨fun ha hb => ?word, fun ha hb => ?half, fun ha hb => ?threeBytes, fun hb => ?byte⟩
  case word => exact ⟨load_unbacked _ rfl ha hb, store_unbacked _ rfl ha hb⟩
  case half => exact ⟨load_unbacked _ rfl ha hb, store_unbacked _ rfl ha hb⟩
  case threeBytes => exact ⟨load_unbacked _ rfl ha hb, store_unbacked _ rfl ha hb⟩
  case byte =>
    exact ⟨load_unbacked (al := 1) _ rfl (Nat.mod_one _) hb, store_unbacked (al := 1) _ rfl (Nat.mod_one _) hb⟩

/-! ## What a completed store leaves -/

/-- A store with a next state, at an aligned address, completed. -/
theorem store_next {n al : Nat} {rsb : RegNum} {imm : BitVec 14} {rsa : RegNum} {s t : State}
    (h : store n al rsb imm rsa s = .next t) (hal : (effectiveAddr s rsa imm).toNat % al = 0) :
    Backed s (effectiveAddr s rsa imm) n ∧
      t = { s with
        dmem := writeBytes s.dmem (effectiveAddr s rsa imm) (s.readReg rsb) n
        unsynced := if s.cfg.unifiedMemory then insertAddrs s.unsynced (effectiveAddr s rsa imm) n else s.unsynced
        pc := s.pc + 4 } := by
  rcases store_cases n al rsb imm rsa s with ⟨hmis, -⟩ | ⟨-, -, hstuck⟩ | ⟨-, hb, hnext⟩
  · exact absurd hal hmis
  · cases hstuck.symm.trans h
  · exact ⟨hb, by injection h.symm.trans hnext⟩

/-- A store that left the core running was aligned. -/
theorem store_aligned {n al : Nat} {rsb : RegNum} {imm : BitVec 14} {rsa : RegNum} {s t : State}
    (h : store n al rsb imm rsa s = .next t) (hrun : t.halted = false) : (effectiveAddr s rsa imm).toNat % al = 0 := by
  by_contra hmis
  rcases store_cases n al rsb imm rsa s with ⟨-, hnext⟩ | ⟨hal, -⟩ | ⟨hal, -⟩
  · obtain rfl : t = _ := by injection h.symm.trans hnext
    cases hrun
  · exact hmis hal
  · exact hmis hal

/-! ## A stored word and the fetch (20_memory R86) -/

theorem exec_sync (s : State) : exec .sync s =
    .next { s with unsynced := if s.cfg.unifiedMemory then [] else s.unsynced, pc := s.pc + 4 } := by
  show Host.Outcome.next (advance (syncFetch s)) = _
  unfold syncFetch
  split <;> rfl

/-- In a unified memory the bytes of a store are what the fetch finds, where the platform backs them. -/
theorem fetchByte_stored {s t : State} {ea v : Word} {n k : Nat} (hc : t.cfg = s.cfg)
    (hd : t.dmem = writeBytes s.dmem ea v n) (hu : s.cfg.unifiedMemory = true) (hb : Backed s ea n) (hk : k < n)
    (hn : n ≤ 4294967296) : fetchByte t (ea + BitVec.ofNat 32 k) = some (v.extractLsb' (8 * (n - 1 - k)) 8) := by
  have backed := (backedRange_iff ..).1 ((backedRange_iff_Backed ..).2 hb) k hk
  have read := read_writeBytes_in s.dmem ea v n k hk hn
  generalize ea + BitVec.ofNat 32 k = a at backed read ⊢
  simp [fetchByte, fetchMemory, hc, hd, hu, backed, read]

/-- Settles O11: the store makes its four bytes unsynced, and the sync empties the set. -/
theorem storedWordIsFetchableAfterSync : Obligations.StoredWordIsFetchableAfterSync := by
  intro s t rsb rsa imm hu hrun hal hsw
  obtain ⟨hb, ht⟩ := store_next (n := 4) (al := 4) hsw hal
  have hcfg : t.cfg = s.cfg := by rw [ht]
  have huns : t.unsynced = insertAddrs s.unsynced (effectiveAddr s rsa imm) 4 := by rw [ht, if_pos hu]
  have fetched : ∀ k < 4, fetchByte t (effectiveAddr s rsa imm + BitVec.ofNat 32 k) = some (byteOfWord (s.readReg rsb) k) :=
    fun k hk => fetchByte_stored hcfg (by rw [ht]) hu hb hk (by omega)
  refine ⟨step_of_unsynced _ (by rw [ht]; exact hrun) hal fun hsync => ?_, _, exec_sync t, by simp [hcfg, hu], ?_⟩
  · refine hsync (hcfg ▸ hu) 0 (by omega) ?_
    rw [huns]
    exact (mem_insertAddrs ..).2 (.inr ⟨0, by omega, rfl⟩)
  · rw [fetchWord_eq_some_iff]
    have first : fetchByte t (effectiveAddr s rsa imm) = some (byteOfWord (s.readReg rsb) 0) := by
      simpa using fetched 0 (by omega)
    exact ⟨_, _, _, _, first, fetched 1 (by omega), fetched 2 (by omega), fetched 3 (by omega),
      (wordOfBytes_byteOfWord _).symm⟩

/-! ## Loads inside the bytes of a store (42_load_store R190) -/

/-- Data memory holds the low `n` bytes of `v` from `ea` up, the most significant first. -/
def HoldsBytes (t : State) (ea v : Word) (n : Nat) : Prop :=
  ∀ k < n, t.readByte (ea + BitVec.ofNat 32 k) = v.extractLsb' (8 * (n - 1 - k)) 8

/-- A read of `w` bytes inside them gives the bits of `v` that they hold. -/
theorem memRead_inside {t : State} {ea v : Word} {n : Nat} (h : HoldsBytes t ea v n) (w k : Nat) (hk : k + w ≤ n) :
    memRead t (ea + BitVec.ofNat 32 k) w = (v.extractLsb' (8 * (n - k - w)) (8 * w)).setWidth 32 := by
  induction w generalizing k with
  | zero => simp [memRead]
  | succ w ih =>
    have next : ea + BitVec.ofNat 32 k + 1 = ea + BitVec.ofNat 32 (k + 1) := by
      rw [← add_one_add_ofNat]; ac_rfl
    rw [memRead, h k (by omega), next, ih (k + 1) (by omega)]
    apply BitVec.eq_of_getLsbD_eq
    intro i hi
    simp only [BitVec.getLsbD_or, BitVec.getLsbD_shiftLeft, BitVec.getLsbD_setWidth, BitVec.getLsbD_extractLsb', hi,
      decide_true, Bool.true_and]
    by_cases hlow : i < 8 * w
    · have hs : 8 * (n - (k + 1) - w) = 8 * (n - k - (w + 1)) := by omega
      simp [hlow, hs, show i < 8 * (w + 1) by omega]
    · have hs : 8 * (n - 1 - k) + (i - 8 * w) = 8 * (n - k - (w + 1)) + i := by omega
      simp [hlow, hs, show i - 8 * w < 32 by omega, show (i - 8 * w < 8) = (i < 8 * (w + 1)) from propext (by omega)]

/-- Bits of a word, as a shift and a mask take them. -/
theorem setWidth_extractLsb' (v : Word) (m l : Nat) :
    (v.extractLsb' m l).setWidth 32 = (v >>> m) &&& (BitVec.allOnes l).setWidth 32 := by
  apply BitVec.eq_of_getLsbD_eq
  intro i hi
  simp [hi, Bool.and_comm]

/-- The bits from `m` to the top need no mask. -/
theorem ushiftRight_and_allOnes (v : Word) (m l : Nat) (h : 32 ≤ m + l) :
    (v >>> m) &&& (BitVec.allOnes l).setWidth 32 = v >>> m := by
  apply BitVec.eq_of_getLsbD_eq
  intro i hi
  by_cases hl : i < l
  · simp [hi, hl]
  · simp [hi, hl, BitVec.getLsbD_of_ge v (m + i) (by omega)]

/-- A completed store, as the loads after it find it: backed addresses under the same parameters, and the bytes. -/
structure Stored (t : State) (ea v : Word) (n al : Nat) : Prop where
  aligned : ea.toNat % al = 0
  backed : Backed t ea n
  bytes : HoldsBytes t ea v n

theorem stored_of_store {n al : Nat} {rsb : RegNum} {imm : BitVec 14} {rsa : RegNum} {s t : State} (hn : n ≤ 4)
    (h : store n al rsb imm rsa s = .next t) (hrun : t.halted = false) :
    Stored t (effectiveAddr s rsa imm) (s.readReg rsb) n al := by
  have hal := store_aligned h hrun
  obtain ⟨hb, ht⟩ := store_next h hal
  refine ⟨hal, by rw [ht]; exact hb, fun k hk => ?_⟩
  rw [State.readByte, ht, read_writeBytes_in _ _ _ _ _ hk (by omega), Option.getD_some]

/-- A load of `w` of the stored bytes, from the distance `k` on, reads the bits of `v` from `m` on. -/
theorem load_inside {t : State} {ea v : Word} {n al w wal k m : Nat} {rd base : RegNum} {off : BitVec 14} {i : Instr}
    (hs : Stored t ea v n al) (hi : exec i t = load w wal rd off base t) (hrd : rd ≠ 0)
    (hk : (effectiveAddr t base off - ea).toNat = k) (hm : m + 8 * (k + w) = 8 * n)
    (hal : (ea + BitVec.ofNat 32 k).toNat % wal = 0) :
    ∃ u, exec i t = .next u ∧ u.readReg rd = (v >>> m) &&& (BitVec.allOnes (8 * w)).setWidth 32 := by
  have hea : effectiveAddr t base off = ea + BitVec.ofNat 32 k := by
    rw [← hk, BitVec.ofNat_toNat, BitVec.setWidth_eq, BitVec.add_comm, BitVec.sub_add_cancel]
  have hb : Backed t (effectiveAddr t base off) w := fun j hj r hr => by
    have shift : effectiveAddr t base off + BitVec.ofNat 32 j = ea + BitVec.ofNat 32 (k + j) := by
      rw [hea, BitVec.ofNat_add, BitVec.add_assoc]
    rw [shift]
    exact hs.backed (k + j) (by omega) r hr
  obtain ⟨u, hu, ⟨hread, -⟩, -, -, ⟨-, hbank, -⟩, -⟩ := load_completes i hi (by rw [hea]; exact hal) hb
  refine ⟨u, hu, ?_⟩
  rw [State.readReg, hbank, hread, if_neg hrd, hea, memRead_inside hs.bytes w k (by omega), ← setWidth_extractLsb',
    show 8 * (n - k - w) = m by omega]

/-- The same for the bytes from the top of the word on. -/
theorem load_inside_top {t : State} {ea v : Word} {al w wal m : Nat} {rd base : RegNum} {off : BitVec 14} {i : Instr}
    (hs : Stored t ea v 4 al) (hi : exec i t = load w wal rd off base t) (hrd : rd ≠ 0)
    (hk : (effectiveAddr t base off - ea).toNat = 0) (hm : m + 8 * w = 32) (hal : ea.toNat % wal = 0) :
    ∃ u, exec i t = .next u ∧ u.readReg rd = v >>> m := by
  obtain ⟨u, hu, hread⟩ := load_inside (m := m) hs hi hrd hk (by omega) (by simpa using hal)
  exact ⟨u, hu, hread.trans (ushiftRight_and_allOnes v m _ (by omega))⟩

/-- The same for the last bytes. -/
theorem load_inside_last {t : State} {ea v : Word} {n al w wal k : Nat} {rd base : RegNum} {off : BitVec 14} {i : Instr}
    (hs : Stored t ea v n al) (hi : exec i t = load w wal rd off base t) (hrd : rd ≠ 0)
    (hk : (effectiveAddr t base off - ea).toNat = k) (hw : k + w = n) (hal : (ea + BitVec.ofNat 32 k).toNat % wal = 0) :
    ∃ u, exec i t = .next u ∧ u.readReg rd = v &&& (BitVec.allOnes (8 * w)).setWidth 32 := by
  have h := load_inside (m := 0) hs hi hrd hk (by omega) hal
  rwa [BitVec.ushiftRight_zero] at h

/-- Settles O26: each load lies inside the stored bytes, at an address that its alignment admits. -/
theorem loadsReadBackWhatStoresWrote : Obligations.LoadsReadBackWhatStoresWrote := by
  intro s t rd rsb rsa base imm off hrd hrun v k reads
  refine ⟨fun hsw => ?sw, fun hsth => ?sth, fun hsh => ?sh, fun hsb hk => ?sb⟩
  case sw =>
    have st := stored_of_store (n := 4) (al := 4) (by omega) hsw hrun
    have hal := st.aligned
    refine ⟨fun hk => ⟨?lw, ?lth, ?lh⟩, fun hk => ?lhLow, fun hk => ?lb⟩
    case lw =>
      obtain ⟨u, hu, hread⟩ := load_inside_top (i := .lw rd off base) (m := 0) st rfl hrd hk (by omega) hal
      exact ⟨u, hu, hread.trans (BitVec.ushiftRight_zero v)⟩
    case lth => exact load_inside_top (i := .lth rd off base) st rfl hrd hk (by omega) hal
    case lh => exact load_inside_top (i := .lh rd off base) st rfl hrd hk (by omega) (by omega)
    case lhLow =>
      have even : (effectiveAddr s rsa imm + BitVec.ofNat 32 2).toNat % 2 = 0 := by
        rw [BitVec.toNat_add, BitVec.toNat_ofNat]
        omega
      exact load_inside_last (i := .lh rd off base) st rfl hrd hk rfl even
    case lb => exact load_inside (i := .lb rd off base) st rfl hrd rfl (by omega) (Nat.mod_one _)
  case sth =>
    have st := stored_of_store (n := 3) (al := 4) (by omega) hsth hrun
    have hal : (effectiveAddr s rsa imm + BitVec.ofNat 32 0).toNat % 4 = 0 := by simpa using st.aligned
    refine ⟨fun hk => ⟨?lth, ?lh⟩, fun hk => ?lb⟩
    case lth => exact load_inside_last (i := .lth rd off base) st rfl hrd hk rfl hal
    case lh => exact load_inside (i := .lh rd off base) st rfl hrd hk (by omega) (by omega)
    case lb => exact load_inside (i := .lb rd off base) st rfl hrd rfl (by omega) (Nat.mod_one _)
  case sh =>
    have st := stored_of_store (n := 2) (al := 2) (by omega) hsh hrun
    refine ⟨fun hk => ?lh, fun hk => ?lb⟩
    case lh => exact load_inside_last (i := .lh rd off base) st rfl hrd hk rfl (by simpa using st.aligned)
    case lb => exact load_inside (i := .lb rd off base) st rfl hrd rfl (by omega) (Nat.mod_one _)
  case sb =>
    have st := stored_of_store (n := 1) (al := 1) (by omega) hsb hrun
    exact load_inside_last (i := .lb rd off base) st rfl hrd hk rfl (Nat.mod_one _)

end Sys2Proof.Machine
end

section
/-!
PROOFS. The Load Immediate family (43_load_immediate), the order branches and the jumps (44_branch_jump), and the assembler's
`call` (46_macros R270), which is an upper load-immediate and a linking jump one after the other.
-/

namespace Sys2Proof.Machine

/-! ## Load Immediate -/

/-- The sign-extended lower half, the zero-extended one and the upper half, into a file of the two banks. -/
theorem fileAnswer_bankImmediates (s : State) (rd : RegNum) (imm : BitVec 16) :
    FileAnswer (.li rd imm) .gp rd (BitVec.ofInt 32 imm.toInt) s ∧
    FileAnswer (.lsi rd imm) .sys rd (BitVec.ofInt 32 imm.toInt) s ∧
    FileAnswer (.lni rd imm) .gp rd (BitVec.ofNat 32 imm.toNat) s ∧
    FileAnswer (.lnsi rd imm) .sys rd (BitVec.ofNat 32 imm.toNat) s ∧
    FileAnswer (.lui rd imm) .gp rd (upperLoadValue s imm (s.regs.readGp rd)) s ∧
    FileAnswer (.lusi rd imm) .sys rd (upperLoadValue s imm (s.regs.readSys rd)) s ∧
    FileAnswer (.luni rd imm) .gp rd (upperLoadValue s imm (s.regs.readGp rd)) s ∧
    FileAnswer (.lunsi rd imm) .sys rd (upperLoadValue s imm (s.regs.readSys rd)) s := by
  rw [← signExtend_eq_ofInt, ← setWidth_eq_ofNat, ← upperValue_eq, ← upperValue_eq]
  exact ⟨fileAnswer_of_exec _ _ _ _ _ rfl, fileAnswer_of_exec _ _ _ _ _ rfl, fileAnswer_of_exec _ _ _ _ _ rfl,
    fileAnswer_of_exec _ _ _ _ _ rfl, fileAnswer_of_exec _ _ _ _ _ rfl, fileAnswer_of_exec _ _ _ _ _ rfl,
    fileAnswer_of_exec _ _ _ _ _ rfl, fileAnswer_of_exec _ _ _ _ _ rfl⟩

/-- Settles O27: the eight words and the eight answers. -/
theorem bankImmediatesWriteTheNamedFile : Obligations.BankImmediatesWriteTheNamedFile := fun s rd imm =>
  ⟨decodesTo_encode (.li rd imm) rfl, decodesTo_encode (.lsi rd imm) rfl, decodesTo_encode (.lui rd imm) rfl,
    decodesTo_encode (.lusi rd imm) rfl, decodesTo_encode (.lni rd imm) rfl, decodesTo_encode (.lnsi rd imm) rfl,
    decodesTo_encode (.luni rd imm) rfl, decodesTo_encode (.lunsi rd imm) rfl, fileAnswer_bankImmediates s rd imm⟩

/-- Settles O28: the same three values, into GLBREGF. -/
theorem glbregfImmediates : Obligations.GlbregfImmediates := by
  intro s rd imm
  rw [← signExtend_eq_ofInt, ← setWidth_eq_ofNat, ← upperValue_eq]
  exact ⟨decodesTo_encode (.lgi rd imm) rfl, decodesTo_encode (.lugi rd imm) rfl, decodesTo_encode (.lngi rd imm) rfl,
    decodesTo_encode (.lungi rd imm) rfl, glbAnswer_of_exec _ _ _ _ rfl, glbAnswer_of_exec _ _ _ _ rfl,
    glbAnswer_of_exec _ _ _ _ rfl, glbAnswer_of_exec _ _ _ _ rfl⟩

/-! ## Branches -/

theorem exec_bgt (rsa rsb : RegNum) (imm : BitVec 14) (s : State) :
    exec (.bgt rsa rsb imm) s = .next (branch (greater s (s.readReg rsa) (s.readReg rsb)) imm s) := rfl

theorem exec_blt (rsa rsb : RegNum) (imm : BitVec 14) (s : State) :
    exec (.blt rsa rsb imm) s = .next (branch (greater s (s.readReg rsb) (s.readReg rsa)) imm s) := rfl

/-- Settles O30: blt is bgt with its operands exchanged. -/
theorem orderBranches : Obligations.OrderBranches := by
  intro s rsa rsb imm
  refine ⟨decodesTo_encode (.bgt rsa rsb imm) rfl, decodesTo_encode (.blt rsa rsb imm) rfl, fun h => ?bgtTaken,
    fun h => ?bgtNot, fun h => ?bltTaken, fun h => ?bltNot⟩
  case bgtTaken => exact jumpAnswer_of_branch_taken (exec_bgt rsa rsb imm s) ((greater_iff ..).2 h)
  case bgtNot => exact jumpAnswer_of_branch_notTaken (exec_bgt rsa rsb imm s) (mt (greater_iff ..).1 h)
  case bltTaken => exact jumpAnswer_of_branch_taken (exec_blt rsa rsb imm s) ((greater_iff ..).2 h)
  case bltNot => exact jumpAnswer_of_branch_notTaken (exec_blt rsa rsb imm s) (mt (greater_iff ..).1 h)

/-! ## Jumps -/

/-- Settles O31: both change `pc` alone. -/
theorem jumpsWithoutLink : Obligations.JumpsWithoutLink := fun _ rsa imm =>
  ⟨decodesTo_encode (.j imm) rfl, decodesTo_jr rsa imm, rfl, rfl⟩

theorem linkAnswer_of_exec {i : Instr} {target : Word} {s : State} (h : exec i s = .next (linkTo target s)) :
    LinkAnswer i target s :=
  ⟨_, h, rfl, wroteReg_of_regs _ _ _ _ _ rfl, rfl, sameRest_update s _ _ s.stat⟩

theorem linkAnswer_jrl (s : State) (rsa : RegNum) (imm : BitVec 21) :
    LinkAnswer (.jrl imm rsa) (s.readReg rsa + BitVec.ofInt 32 imm.toInt) s := linkAnswer_of_exec rfl

/-- Settles O32: the target is computed before the link is written. -/
theorem jumpsWithLink : Obligations.JumpsWithLink := fun s rsa imm =>
  ⟨decodesTo_encode (.jal imm) rfl, fun h => decodesTo_encode (.jrl imm rsa) (bne_iff_ne.2 h),
    linkAnswer_of_exec rfl, linkAnswer_jrl s rsa imm⟩

/-! ## The pair of call -/

theorem SameSpecial.trans {s t u : State} (h1 : SameSpecial s t) (h2 : SameSpecial t u) : SameSpecial s u := by
  obtain ⟨a1, a2, a3, a4, a5, a6, a7, a8⟩ := h1
  obtain ⟨b1, b2, b3, b4, b5, b6, b7, b8⟩ := h2
  exact ⟨b1.trans a1, b2.trans a2, b3.trans a3, b4.trans a4, b5.trans a5, b6.trans a6, b7.trans a7, b8.trans a8⟩

theorem SameMemory.trans {s t u : State} (h1 : SameMemory s t) (h2 : SameMemory t u) : SameMemory s u := by
  obtain ⟨data1, fetch1, uns1⟩ := h1
  obtain ⟨data2, fetch2, uns2⟩ := h2
  exact ⟨fun a => (data2 a).trans (data1 a), fun a => (fetch2 a).trans (fetch1 a), uns2.trans uns1⟩

theorem SameRest.trans {s t u : State} (h1 : SameRest s t) (h2 : SameRest t u) : SameRest s u := by
  obtain ⟨⟨special1, bank1, locks1⟩, mem1⟩ := h1
  obtain ⟨⟨special2, bank2, locks2⟩, mem2⟩ := h2
  exact ⟨⟨special1.trans special2, bank2.trans bank1, locks2.trans locks1⟩, mem1.trans mem2⟩

theorem SameRest.bank {s t : State} (h : SameRest s t) : t.bank = s.bank := by
  obtain ⟨⟨-, hbank, -⟩, -⟩ := h
  exact hbank

/-- A shared register reads alike in both banks (10_state R27). -/
theorem RegFiles.read_shared (f : RegFiles) (b : Bank) (r : RegNum) (h : sharedReg r) : f.read b r = f.readGp r := by
  cases b
  · rfl
  · exact f.readSys_eq_readGp r h

/-- The upper half over zeros, where the old low half is not kept or is zero. -/
theorem upperLoadValue_of_zero {s : State} {old : Word} (imm : BitVec 16)
    (h : s.cfg.liUpperLow = .zero ∨ old.toNat % 2 ^ 16 = 0) :
    upperLoadValue s imm old = BitVec.ofNat 32 (imm.toNat * 2 ^ 16) := by
  unfold upperLoadValue
  cases hc : s.cfg.liUpperLow
  · rfl
  · simp only [hc, reduceCtorEq, false_or] at h
    rw [h, Nat.add_zero]

theorem toNat_upperHalf (a : Word) : (a.extractLsb' 16 16).toNat = a.toNat / 2 ^ 16 := by
  rw [BitVec.extractLsb'_toNat, Nat.shiftRight_eq_div_pow]
  omega

/-- The halves of an address: the upper one over zeros, and the lower one as the offset of a jump, whose sign bit it leaves 0. -/
theorem halves_add (a : Word) :
    BitVec.ofNat 32 (a.toNat / 2 ^ 16 * 2 ^ 16) + BitVec.ofInt 32 ((a.extractLsb' 0 16).setWidth 21).toInt = a := by
  have hlow : ((a.extractLsb' 0 16).setWidth 21).toNat = a.toNat % 2 ^ 16 := by
    rw [BitVec.toNat_setWidth, BitVec.extractLsb'_toNat, Nat.shiftRight_zero]
    omega
  have hint : ((a.extractLsb' 0 16).setWidth 21).toInt = ((a.toNat % 2 ^ 16 : Nat) : Int) := by
    rw [BitVec.toInt_eq_toNat_of_lt (by rw [hlow]; omega), hlow]
  rw [hint, BitVec.ofInt_natCast, ← BitVec.ofNat_add, Nat.div_add_mod' a.toNat (2 ^ 16), BitVec.ofNat_toNat,
    BitVec.setWidth_eq]

/-- Settles O33: lui, then jrl, each by its own answer. -/
theorem callMacroReachesItsLabel : Obligations.CallMacroReachesItsLabel := by
  intro s a i1 i2 hlow hcall
  obtain ⟨rfl, rfl⟩ : .lui tmp0 (a.extractLsb' 16 16) = i1 ∧ .jrl ((a.extractLsb' 0 16).setWidth 21) tmp0 = i2 := by
    simpa [expandCall] using hcall
  obtain ⟨-, -, -, -, ⟨t, ht, ⟨hval, hglb, hregs, -⟩, hstat, hpc, hrest⟩, -⟩ :=
    fileAnswer_bankImmediates s tmp0 (a.extractLsb' 16 16)
  obtain ⟨u, hu, hupc, ⟨hlink, hglb', hregs', hother'⟩, hstat', hrest'⟩ :=
    linkAnswer_jrl t tmp0 ((a.extractLsb' 0 16).setWidth 21)
  have hupper : t.regs.readGp 22 = BitVec.ofNat 32 (a.toNat / 2 ^ 16 * 2 ^ 16) := by
    rw [← toNat_upperHalf, ← upperLoadValue_of_zero _ hlow]
    exact hval
  refine ⟨rfl, rfl, t, u, ht, hu, ?target, ?link, ?upper, fun r h4 h22 => ?frame, ?other,
    fun r => (hglb' r).trans (hglb r), hstat'.trans hstat, hrest.trans hrest'⟩
  case target =>
    have hbase : t.readReg tmp0 = t.regs.readGp 22 := RegFiles.read_shared _ _ _ ⟨by decide, by decide⟩
    rw [hupc, hbase, hupper, halves_add]
  case link =>
    rw [State.readReg, hrest'.bank, hlink, if_neg (by decide), hpc, BitVec.add_assoc]
    rfl
  case upper => exact (hregs' 22 (by decide)).1.trans hupper
  case frame =>
    obtain ⟨hgp, hsys⟩ := hregs r h22
    obtain ⟨hgp', hsys'⟩ := hregs' r h4
    exact ⟨hgp'.trans hgp, hsys'.trans hsys⟩
  case other =>
    obtain ⟨hgp, hsys⟩ := hregs 4 (by decide)
    rw [← hrest.bank, hother' (fun h => absurd h.1 (by decide))]
    cases t.bank
    · exact hsys
    · exact hgp

end Sys2Proof.Machine
end

section
/-!
PROOFS. System calls and returns (45_system R241, R242): an equation for each way a syscall and a sysret can go.
-/

namespace Sys2Proof.Machine

/-! ## syscall -/

theorem exec_syscall_noTable {n : BitVec 8} {s : State} (h : s.sysctpValid = false) :
    exec (.syscall n) s = .next (rejectSyscall .invsys n s) := by
  simp [exec, execSyscall, h]

theorem exec_syscall_noEntry {n : BitVec 8} {s : State} (h : s.sysctpValid = true)
    (hl : s.cfg.syscallTable.lookup n = none) : exec (.syscall n) s = .next (rejectSyscall .invsys n s) := by
  simp [exec, execSyscall, syscallEntry, h, hl]

theorem exec_syscall_below {n : BitVec 8} {s : State} {e : SyscallEntry} (h : s.sysctpValid = true)
    (hl : s.cfg.syscallTable.lookup n = some e) (hp : s.pml.toNat < e.minPml.toNat) :
    exec (.syscall n) s = .next (rejectSyscall .insfpem n s) := by
  simp only [exec, execSyscall, syscallEntry, h, hl, if_true, if_pos hp]

theorem exec_syscall_accepted {n : BitVec 8} {s : State} {e : SyscallEntry} (h : s.sysctpValid = true)
    (hl : s.cfg.syscallTable.lookup n = some e) (hp : e.minPml.toNat ≤ s.pml.toNat) :
    exec (.syscall n) s = .next (enterSyscall e s) := by
  simp only [exec, execSyscall, syscallEntry, h, hl, if_true, if_neg (Nat.not_lt.2 hp)]

theorem enterSyscall_pml_toNat (e : SyscallEntry) (s : State) :
    (enterSyscall e s).pml.toNat = max s.pml.toNat e.runPml.toNat := by
  rw [enterSyscall_eq]
  cases hp : s.cfg.hasPml
  · have := e.runPml.isLt
    simp only [State.pml, hp, Bool.false_eq_true, if_false]
    exact (Nat.max_eq_left (Nat.le_of_lt_succ this)).symm
  · simp only [← raisedLevel_toNat, State.pml, hp, if_true]

theorem enterSyscall_pema (e : SyscallEntry) (s : State) : (enterSyscall e s).pema = true := by
  rw [enterSyscall_eq]
  cases hp : s.cfg.hasPml <;> simp [State.pema, hp]

/-- Settles O35: the level and PEMA by their own lemmas, all else by the state that the call ends in. -/
theorem acceptedSyscallEntersTheRoutine : Obligations.AcceptedSyscallEntersTheRoutine := by
  intro s n e
  refine ⟨fun junk => decodesTo_syscall junk n, fun hv hl hp => ⟨_, exec_syscall_accepted hv hl hp, ?_⟩⟩
  have hpml := enterSyscall_pml_toNat e s
  have hpema := enterSyscall_pema e s
  rw [enterSyscall_eq] at hpml hpema ⊢
  exact ⟨rfl, rfl, rfl, rfl, hpml, hpema, rfl, rfl, rfl, rfl, fun _ => ⟨rfl, rfl, rfl⟩, rfl, rfl, rfl, rfl, rfl, rfl, rfl,
    fun _ => rfl, fun _ => rfl, rfl⟩

/-- A rejected syscall clears PEMA where there are permission levels (45_system R241). -/
theorem rejectSyscall_cleared (e : Exn) (n : BitVec 8) (s : State) :
    rejectSyscall e n s = Raised e (n.setWidth 32)
      (if s.cfg.hasPml then { s with stat := { s.stat with pema := false } } else s) := by
  rw [rejectSyscall_eq]
  cases s.cfg.hasPml <;> rfl

/-- Settles O36: the three ways to be rejected. -/
theorem rejectedSyscallClearsPemaAndRaises : Obligations.RejectedSyscallClearsPemaAndRaises := by
  intro s n cleared
  refine ⟨fun hv => ?noTable, fun hv hl => ?noEntry, fun e hv hl hp => ?below⟩
  case noTable => rw [exec_syscall_noTable hv, rejectSyscall_cleared]
  case noEntry => rw [exec_syscall_noEntry hv hl, rejectSyscall_cleared]
  case below => rw [exec_syscall_below hv hl hp, rejectSyscall_cleared]

/-- A syscall that leaves the core running was accepted. -/
theorem syscall_running {n : BitVec 8} {s t : State} (h : exec (.syscall n) s = .next t) (hrun : t.halted = false) :
    ∃ e, t = enterSyscall e s := by
  have rejected : ∀ e, exec (.syscall n) s ≠ .next (rejectSyscall e n s) := fun e he => by
    obtain rfl : t = _ := by injection h.symm.trans he
    rw [rejectSyscall_eq] at hrun
    cases hrun
  cases hv : s.sysctpValid
  · exact absurd (exec_syscall_noTable hv) (rejected _)
  · cases hl : s.cfg.syscallTable.lookup n with
    | none => exact absurd (exec_syscall_noEntry hv hl) (rejected _)
    | some e =>
      by_cases hp : s.pml.toNat < e.minPml.toNat
      · exact absurd (exec_syscall_below hv hl hp) (rejected _)
      · exact ⟨e, by injection h.symm.trans (exec_syscall_accepted hv hl (Nat.not_lt.1 hp))⟩

/-! ## sysret -/

theorem exec_sysret_sys {s : State} (h : s.bank = .sys) : exec .sysret s = .next (leaveSyscall s) := by
  simp only [exec, execSysret, h]

theorem exec_sysret_gp {s : State} (h : s.bank = .gp) : exec .sysret s = .refused .sysretOutsideSyscall := by
  simp only [exec, execSysret, h]

/-- Settles O37: the bank decides whether there is a call to return from. -/
theorem sysretRestoresTheCaller : Obligations.SysretRestoresTheCaller := by
  intro s
  refine ⟨decodesTo_sysret, fun hb => ⟨_, exec_sysret_sys hb, ?_⟩, exec_sysret_gp⟩
  rw [leaveSyscall_eq]
  exact ⟨rfl, rfl, fun hp => by simp [hp], fun hp => by simp [hp], fun _ => ⟨rfl, rfl, rfl⟩,
    ⟨rfl, rfl, rfl, rfl, rfl, rfl, rfl, rfl⟩, rfl, fun _ => rfl, fun _ => rfl, rfl⟩

/-- The level that a return restores (45_system R242). -/
theorem leaveSyscall_pml (s : State) : (leaveSyscall s).pml = if s.cfg.hasPml then s.sysretPml else 7 := by
  rw [leaveSyscall_eq]
  cases hp : s.cfg.hasPml <;> simp [State.pml, hp]

/-- Settles O38: the return pair holds what the call saved, and the caller's registers are those of GPREGF. -/
theorem syscallThenSysretReturnsToTheCaller : Obligations.SyscallThenSysretReturnsToTheCaller := by
  intro s t u n hgp hcall hrun hcfg hsys hpc hpml
  obtain ⟨e, rfl⟩ := syscall_running hcall hrun
  rw [enterSyscall_eq] at hcfg hpc hpml
  have hv := leaveSyscall_eq u
  refine ⟨_, exec_sysret_sys hsys, ?pc, ?level, ?bank, fun r _ hr => ?kept, fun r hr => ?shared⟩
  case pc => rw [hv]; exact hpc
  case level =>
    rw [leaveSyscall_pml, hcfg, hpml]
    show (if s.cfg.hasPml then s.pml else 7) = s.pml
    cases hp : s.cfg.hasPml
    · exact (pml_of_not_hasPml s hp).symm
    · rfl
  case bank => rw [hv]
  case kept =>
    rw [enterSyscall_eq] at hr
    rw [hv, State.readReg, State.readReg, hgp]
    exact hr
  case shared =>
    rw [hv, State.readReg, State.readReg, hsys]
    exact (u.regs.readSys_eq_readGp r hr).symm

end Sys2Proof.Machine
end

section
/-!
PROOFS. The System Registers (10_state R37 to R52, R61): what ldspr and stspr do at a register whose level is reached, below it,
and at an address that is no register.
-/

namespace Sys2Proof.Machine

/-! ## The three ways of an access -/

theorem exec_stspr_below {s : State} {rsa : RegNum} {a : BitVec 8} {r : Spr} (h : sprAt a = some r)
    (hp : s.pml.toNat < sprWriteLevel r) :
    exec (.stspr rsa a) s = .next (Raised .insfpem (BitVec.ofNat 32 a.toNat) s) := by
  simp only [exec, execStspr, h, if_pos hp, raiseException_eq, setWidth_eq_ofNat]

theorem exec_ldspr_below {s : State} {rd : RegNum} {a : BitVec 8} {r : Spr} (h : sprAt a = some r)
    (hp : s.pml.toNat < sprReadLevel r) :
    exec (.ldspr rd a) s = .next (Raised .insfpem (BitVec.ofNat 32 a.toNat) s) := by
  simp only [exec, execLdspr, h, if_pos hp, raiseException_eq, setWidth_eq_ofNat]

theorem exec_stspr_unknown {s : State} {rsa : RegNum} {a : BitVec 8} (h : sprAt a = none) :
    exec (.stspr rsa a) s = .refused (.unknownSpr a) := by
  simp only [exec, execStspr, h]

theorem exec_ldspr_unknown {s : State} {rd : RegNum} {a : BitVec 8} (h : sprAt a = none) :
    exec (.ldspr rd a) s = .refused (.unknownSpr a) := by
  simp only [exec, execLdspr, h]

theorem exec_stspr_stat_readOnly {s : State} {rsa : RegNum} (hp : 2 ≤ s.pml.toNat)
    (h : (s.readReg rsa).extractLsb' 2 6 ≠ 0) :
    exec (.stspr rsa 0x02) s = .refused (.statReadOnlyBits (s.readReg rsa)) := by
  have hat : sprAt 0x02 = some .stat := rfl
  have hl : ¬s.pml.toNat < sprWriteLevel .stat := Nat.not_lt.2 hp
  simp only [exec, execStspr, hat, if_neg hl, ne_eq, h, not_false_eq_true, and_self, if_true]

theorem sprAt_eq_none {a : BitVec 8} (h : a.toNat ∉ [0x00, 0x01, 0x02, 0x04, 0x08, 0x0c, 0x10, 0x12]) :
    sprAt a = none := by
  simp only [List.mem_cons, List.not_mem_nil, or_false, not_or] at h
  unfold sprAt
  split
  case h_9 => rfl
  all_goals omega

/-! ## The registers -/

/-- Settles O39: the level of both registers is 0, and a write to them is no change. -/
theorem hardCodedRegistersAreReadOnly : Obligations.HardCodedRegistersAreReadOnly := by
  intro s rd rsa
  rw [← setWidth_eq_ofNat, ← setWidth_eq_ofNat]
  exact ⟨ldspr_completes rd 0x00 .cpurev s rfl (Nat.zero_le _), ldspr_completes rd 0x01 .cpnum s rfl (Nat.zero_le _),
    stspr_completes rsa 0x00 .cpurev s rfl (Nat.zero_le _) (.inl (by decide)),
    stspr_completes rsa 0x01 .cpnum s rfl (Nat.zero_le _) (.inl (by decide))⟩

/-- Bits 7 to 2 of a word are zero where its low byte is below 4. -/
theorem extractLsb'_two_six_eq_zero_iff (v : Word) : v.extractLsb' 2 6 = 0 ↔ v.toNat % 256 < 4 := by
  rw [← BitVec.toNat_inj, BitVec.extractLsb'_toNat, Nat.shiftRight_eq_div_pow, show (0 : BitVec 6).toNat = 0 from rfl]
  omega

/-- Settles O40: the read-only bits are bits 7 to 2, zero exactly where the low byte is below 4. -/
theorem statIsReadWholeAndWrittenInTwoBits : Obligations.StatIsReadWholeAndWrittenInTwoBits := by
  intro s rd rsa v
  refine ⟨?read, fun hp hv => ?write, fun hp hv => ?readOnly⟩
  case read =>
    rw [← statBits_toNat, ← setWidth_eq_ofNat]
    exact ldspr_completes rd 0x02 .stat s rfl (Nat.zero_le _)
  case write => exact stspr_completes rsa 0x02 .stat s rfl hp (.inr ((extractLsb'_two_six_eq_zero_iff v).2 hv))
  case readOnly => exact exec_stspr_stat_readOnly hp (mt (extractLsb'_two_six_eq_zero_iff v).1 (Nat.not_lt.2 hv))

/-- A write to a pointer that may be hard-coded (10_state R48, R49). -/
theorem exec_stspr_opcarp {s : State} {rsa : RegNum} (hp : 3 ≤ s.pml.toNat) : exec (.stspr rsa 0x04) s = .next { s with
    pc := s.pc + 4, spr := if s.cfg.opcarpHardcoded then s.spr else { s.spr with opcarp := s.readReg rsa } } := by
  rw [stspr_completes rsa 0x04 .opcarp s rfl hp (.inl (by decide)), writeSpr]
  split <;> rfl

theorem exec_stspr_cpidtp {s : State} {rsa : RegNum} (hp : 4 ≤ s.pml.toNat) : exec (.stspr rsa 0x08) s = .next { s with
    pc := s.pc + 4, spr := if s.cfg.cpidtpHardcoded then s.spr else { s.spr with cpidtp := s.readReg rsa } } := by
  rw [stspr_completes rsa 0x08 .cpidtp s rfl hp (.inl (by decide)), writeSpr]
  split <;> rfl

theorem extractLsb'_zero_eq_ofNat (v : Word) : v.extractLsb' 0 16 = BitVec.ofNat 16 v.toNat := by
  apply BitVec.eq_of_toNat_eq
  simp

/-- Settles O41: each register at its address, from its level. -/
theorem pointerAndProcessRegistersReadAndWrite : Obligations.PointerAndProcessRegistersReadAndWrite := by
  intro s rd rsa v
  rw [← setWidth_eq_ofNat, ← extractLsb'_zero_eq_ofNat]
  exact ⟨fun hp => ldspr_completes rd 0x04 .opcarp s rfl hp, ldspr_completes rd 0x08 .cpidtp s rfl (Nat.zero_le _),
    ldspr_completes rd 0x10 .rptinfo s rfl (Nat.zero_le _), ldspr_completes rd 0x12 .rpid s rfl (Nat.zero_le _),
    exec_stspr_opcarp, exec_stspr_cpidtp,
    fun hp => stspr_completes rsa 0x10 .rptinfo s rfl hp (.inl (by decide)),
    fun hp => stspr_completes rsa 0x12 .rpid s rfl hp (.inl (by decide))⟩

/-- Settles O42: the six write levels are those of the registers at the six addresses. -/
theorem accessBelowTheLevelRaisesInsfpem : Obligations.AccessBelowTheLevelRaisesInsfpem := by
  intro s rd rsa a level
  refine ⟨fun hmem hp => ?_, exec_ldspr_below (a := 0x04) (r := .opcarp) rfl⟩
  have hreg : ∃ r, sprAt a = some r ∧ sprWriteLevel r = level := by
    simp only [List.mem_cons, Prod.mk.injEq, List.not_mem_nil, or_false] at hmem
    rcases hmem with ⟨rfl, rfl⟩ | ⟨rfl, rfl⟩ | ⟨rfl, rfl⟩ | ⟨rfl, rfl⟩ | ⟨rfl, rfl⟩ | ⟨rfl, rfl⟩ <;> exact ⟨_, rfl, rfl⟩
  obtain ⟨r, hat, rfl⟩ := hreg
  exact exec_stspr_below hat hp

/-- Settles O43: the eight addresses are all that name a register. -/
theorem uintenAndUnknownRegisters : Obligations.UintenAndUnknownRegisters := by
  intro s rd rsa spr
  refine ⟨fun junk => ⟨decodesTo_stspr junk rsa spr, decodesTo_ldspr rd junk spr⟩,
    ldspr_completes rd 0x0c .uinten s rfl (Nat.zero_le _),
    fun hp => stspr_completes rsa 0x0c .uinten s rfl hp (.inl (by decide)), fun hspr => ?unknown⟩
  exact ⟨exec_stspr_unknown (sprAt_eq_none hspr), exec_ldspr_unknown (sprAt_eq_none hspr)⟩

end Sys2Proof.Machine
end

section
/-!
PROOFS. sync, lock, test, pmir and pmd (45_system R245 to R249), and the reset (70_reset R350, R351).
-/

namespace Sys2Proof.Machine

/-- Settles O44: `UNIFIED_MEMORY` decides whether there is a set to empty. -/
theorem syncOnlyAdvances : Obligations.SyncOnlyAdvances := by
  intro s
  refine ⟨decodesTo_sync, fun hu => ?separate, fun hu => ?unified⟩
  case separate => simp only [exec_sync, hu, Bool.false_eq_true, if_false]
  case unified => simp only [exec_sync, hu, if_true]

/-! ## Locks -/

theorem exec_lock_free {s : State} {rd rsa : RegNum} (h : (s.readReg rsa).toNat ∉ s.locks) : exec (.lock rd rsa) s =
    .next { s with
      locks := insertAddr (s.readReg rsa).toNat s.locks, regs := s.regs.write s.bank rd 0, pc := s.pc + 4 } := by
  have hc : ¬s.locks.contains (s.readReg rsa).toNat = true := by simpa using h
  exact if_neg hc

theorem exec_lock_locked {s : State} {rd rsa : RegNum} (h : (s.readReg rsa).toNat ∈ s.locks) : exec (.lock rd rsa) s =
    .next { s with regs := s.regs.write s.bank rd (lockErr (s.readReg rsa)), pc := s.pc + 4 } := by
  have hc : s.locks.contains (s.readReg rsa).toNat = true := by simpa using h
  exact if_pos hc

theorem exec_test_free {s : State} {rd rsa : RegNum} (h : (s.readReg rsa).toNat ∉ s.locks) :
    exec (.test rd rsa) s = .next { s with regs := s.regs.write s.bank rd 0, pc := s.pc + 4 } := by
  have hc : ¬s.locks.contains (s.readReg rsa).toNat = true := by simpa using h
  exact if_neg hc

theorem exec_test_locked {s : State} {rd rsa : RegNum} (h : (s.readReg rsa).toNat ∈ s.locks) : exec (.test rd rsa) s =
    .next { s with regs := s.regs.write s.bank rd (lockErr (s.readReg rsa)), pc := s.pc + 4 } := by
  have hc : s.locks.contains (s.readReg rsa).toNat = true := by simpa using h
  exact if_pos hc

/-- Settles O45: whether the address is in the set decides. -/
theorem lockTakesAFreeAddress : Obligations.LockTakesAFreeAddress := by
  intro s rd rsa a
  refine ⟨decodesTo_lock rd rsa, fun hfree => ⟨_, exec_lock_free hfree, ?free⟩, fun hlocked => ?locked⟩
  case free =>
    exact ⟨wroteReg_of_regs _ _ _ _ _ rfl, rfl, rfl, fun b => mem_insertAddr .., ⟨rfl, rfl, rfl, rfl, rfl, rfl, rfl, rfl⟩,
      rfl, fun _ => rfl, fun _ => rfl, rfl⟩
  case locked => exact ⟨lockErr _, lockErr_ne_zero _, regAnswer_of_exec _ _ _ _ (exec_lock_locked hlocked)⟩

/-- An answer says of register 0 that it reads 0, whatever was to be written. -/
theorem regAnswer_read {i : Instr} {rd : RegNum} {v : Word} {s : State} {f : RegFiles} (h : RegAnswer i rd v s)
    (hf : f = s.regs.write s.bank rd v) : RegAnswer i rd (f.read s.bank rd) s := by
  obtain ⟨t, ht, ⟨hread, hframe⟩, hrest⟩ := h
  refine ⟨t, ht, ⟨?_, hframe⟩, hrest⟩
  rw [hread, hf, RegFiles.read_write_same]
  split <;> rfl

/-- Settles O46: lock and test write the same value, 0 of a free address and the error code of a locked one. -/
theorem testReportsWhatLockWould : Obligations.TestReportsWhatLockWould := by
  intro s t rd rsa
  have free := fun h : (s.readReg rsa).toNat ∉ s.locks => regAnswer_of_exec (.test rd rsa) rd 0 s (exec_test_free h)
  have locked := fun h : (s.readReg rsa).toNat ∈ s.locks => regAnswer_of_exec (.test rd rsa) rd _ s (exec_test_locked h)
  refine ⟨decodesTo_test rd rsa, fun hlock => ?_, free, fun h => ⟨lockErr _, lockErr_ne_zero _, locked h⟩⟩
  by_cases h : (s.readReg rsa).toNat ∈ s.locks
  · obtain rfl : t = _ := by injection hlock.symm.trans (exec_lock_locked h)
    exact regAnswer_read (locked h) rfl
  · obtain rfl : t = _ := by injection hlock.symm.trans (exec_lock_free h)
    exact regAnswer_read (free h) rfl

/-! ## Changing the level -/

/-- A level that exists is at most 7 and not the reserved one (45_system R248). -/
theorem notALevel_iff (n : BitVec 8) : notALevel n = true ↔ 7 < n.toNat ∨ n = 6 := by
  simp [notALevel]

theorem isLevel_of_le {n : BitVec 8} (h7 : n.toNat ≤ 7) (h6 : n ≠ 6) : ¬notALevel n = true := by
  rw [notALevel_iff]
  rintro (h | h)
  · omega
  · exact h6 h

theorem invalidLevel_eq (n : BitVec 8) (s : State) : invalidLevel n s = .next (Raised .invpr (n.setWidth 32) s) := rfl

theorem setPml_of_hasPml {s : State} (hc : s.cfg.hasPml = true) (v : BitVec 3) :
    advance (s.setPml v) = { s with pc := s.pc + 4, stat := { s.stat with pml := v } } := by
  rw [setPml_eq, hc]
  rfl

theorem pml_le_seven (s : State) : s.pml.toNat ≤ 7 := Nat.le_of_lt_succ s.pml.isLt

/-! ### pmir -/

theorem exec_pmir_noLevels {n : BitVec 8} {s : State} (hc : s.cfg.hasPml = false) :
    exec (.pmir n) s = .next (advance s) := by
  simp [exec, execPmir, hc]

theorem exec_pmir_notALevel {n : BitVec 8} {s : State} (hc : s.cfg.hasPml = true) (hn : notALevel n = true) :
    exec (.pmir n) s = .next (Raised .invpr (n.setWidth 32) s) := by
  simp [exec, execPmir, hc, hn, invalidLevel_eq]

/-- pmir of a level that exists: the current one, a lower one, or a higher one with or without a grant. -/
theorem exec_pmir_level {n : BitVec 8} {s : State} (hc : s.cfg.hasPml = true) (hn : ¬notALevel n = true) :
    exec (.pmir n) s =
      if n.toNat = s.pml.toNat then .next (advance s)
      else if n.toNat < s.pml.toNat then .next (Raised .invpr (n.setWidth 32) s)
      else if (s.pml, n.setWidth 3) ∈ s.cfg.pmirGrants then
        .next { s with pc := s.pc + 4, stat := { s.stat with pml := n.setWidth 3 } }
      else .next (Raised .invpr (n.setWidth 32) s) := by
  simp only [exec, execPmir, hc, hn, Bool.not_true, Bool.false_eq_true, if_false, invalidLevel_eq, pmirGranted,
    List.contains_iff_mem, setPml_of_hasPml hc]

/-- Settles O47: with levels, the clauses follow the order in which pmir asks. -/
theorem pmirRaisesOnlyToAGrantedLevel : Obligations.PmirRaisesOnlyToAGrantedLevel := by
  intro s n
  refine ⟨fun junk => decodesTo_pmir junk n, exec_pmir_noLevels, fun hc =>
    ⟨fun hn => exec_pmir_notALevel hc ((notALevel_iff n).2 hn), fun heq h6 => ?current, fun hlt h6 => ?lower,
      fun hgt h7 h6 => ⟨fun hg => ?granted, fun hg => ?notGranted⟩⟩⟩
  case current => rw [exec_pmir_level hc (isLevel_of_le (by omega) h6), if_pos heq]; rfl
  case lower => rw [exec_pmir_level hc (isLevel_of_le (by omega) h6), if_neg (by omega), if_pos hlt]
  case granted =>
    rw [exec_pmir_level hc (isLevel_of_le h7 h6), if_neg (by omega), if_neg (by omega), if_pos hg]
  case notGranted =>
    rw [exec_pmir_level hc (isLevel_of_le h7 h6), if_neg (by omega), if_neg (by omega), if_neg hg]

/-! ### pmd -/

theorem exec_pmd_noLevels {n : BitVec 8} {s : State} (hc : s.cfg.hasPml = false) :
    exec (.pmd n) s = .next (advance s) := by
  simp [exec, execPmd, hc]

theorem exec_pmd_notALevel {n : BitVec 8} {s : State} (hc : s.cfg.hasPml = true) (hn : notALevel n = true) :
    exec (.pmd n) s = .next (Raised .invpr (n.setWidth 32) s) := by
  simp [exec, execPmd, hc, hn, invalidLevel_eq]

/-- pmd of a level that exists: one not above the current one, or a higher one. -/
theorem exec_pmd_level {n : BitVec 8} {s : State} (hc : s.cfg.hasPml = true) (hn : ¬notALevel n = true) :
    exec (.pmd n) s =
      if n.toNat ≤ s.pml.toNat then .next { s with pc := s.pc + 4, stat := { s.stat with pml := n.setWidth 3 } }
      else .next (Raised .invpr (n.setWidth 32) s) := by
  simp only [exec, execPmd, hc, hn, Bool.not_true, Bool.false_eq_true, if_false, invalidLevel_eq, setPml_of_hasPml hc]

/-- Settles O48: a level above the current one is refused whether it exists or not. -/
theorem pmdLowersTheLevel : Obligations.PmdLowersTheLevel := by
  intro s n
  refine ⟨fun junk => decodesTo_pmd junk n, exec_pmd_noLevels, fun hc =>
    ⟨fun hn => exec_pmd_notALevel hc ((notALevel_iff n).2 hn), fun hle h6 => ?lowered, fun hgt => ?above⟩⟩
  case lowered => rw [exec_pmd_level hc (isLevel_of_le (hle.trans (pml_le_seven s)) h6), if_pos hle]
  case above =>
    by_cases hn : notALevel n = true
    · exact exec_pmd_notALevel hc hn
    · rw [exec_pmd_level hc hn, if_neg (by omega)]

/-! ## Reset -/

/-- Settles O49: a reset under other parameters differs in these, in the memories and in hard-coded pointers alone. -/
theorem resetStartsAtTheVectorAtTheTopLevel : Obligations.ResetStartsAtTheVectorAtTheTopLevel := by
  refine ⟨?_, rfl, rfl, fun _ => rfl⟩
  have pml_of_stat : ∀ s : State, s.stat.pml = 7 → s.pml = 7 := fun s h => by rw [State.pml, h, ite_self]
  have pema_of_noLevels : ∀ s : State, s.cfg.hasPml = false → s.pema = true := fun s h => by simp [State.pema, h]
  rintro s (rfl | ⟨u, rfl⟩)
  · exact ⟨rfl, rfl, pml_of_stat _ rfl, rfl, rfl, rfl, rfl, rfl, pema_of_noLevels _⟩
  · exact ⟨rfl, rfl, pml_of_stat _ rfl, rfl, rfl, rfl, rfl, rfl, pema_of_noLevels _⟩

end Sys2Proof.Machine
end
